-- ==== Sys2Proof/Word.lean ====
section
/-! DEFINITION. The words of the FDVLD: what the spec treats as bits (00_scope.md R10, R11; 30_encoding.md R81, R83). -/

namespace Sys2Proof

/-- A message byte, port, length, cursor or index of 8 bits. -/
abbrev Byte := BitVec 8

/-- A 16-bit descriptor word (R83), and the raw value of a sub-value (R77, R78). -/
abbrev Half := BitVec 16

/-- A 32-bit registry entry header (R81). -/
abbrev HeaderWord := BitVec 32

/-- The normalised flags: 9 bits (R8 `NFLAG_W`, R36). -/
abbrev Flags9 := BitVec 9

/-- An output key id: 8 bits, 0 reserved (R30). -/
abbrev Key := BitVec 8

/-- The bit pattern of an IEEE 754 binary64 value (R12, R29). -/
abbrev F64 := BitVec 64

end Sys2Proof
end

