-- ==== Sys2Proof/Config.lean ====
section
/-! DEFINITION. The implementation parameters of the FDVLD (00_scope.md R8) and the values the spec leaves free. -/

namespace Sys2Proof

/-- `MSG_MAX`: bytes in `MSG_BUF` and at most in a message (R8, R21). -/
def Config.msgMax : Nat := 255

/-- `REG_MAX`: registry entries at most (R8, R24). -/
def Config.regMax : Nat := 16

/-- The result slot file has 256 slots, one per 8-bit key id (R27, R50). -/
def Config.resSlots : Nat := 256

/-- The metadata block of an entry: four strings (R15, R46, R175). -/
structure Metadata where
  nodeType : String
  platformType : String
  radioType : String
  applicationName : String
deriving DecidableEq, Repr, Inhabited

/-- How a DECODE is spread over steps: the parameter `IMPL_MULTICYCLE` (R8, R123). `atomic` is `false`, the
reference. The other two are `true`, with `STATE = BUSY` between steps: `slotwise` runs a whole slot in a step,
`readwise` runs one sub-value in a step, so at most one `MemRead` (log 1). -/
inductive Impl where
  | atomic
  | slotwise
  | readwise
deriving DecidableEq, Repr, Inhabited

/-- The values the parameter `SOIL_T_KIND_0x15` can take (R8, R172). -/
inductive SoilKind where
  | s16Q8
  | u16Q8
deriving DecidableEq, Repr, Inhabited

/-- The OPEN parameter `META` of the reference registry (R46, R175): uninterpreted, no statement can rest on a string
(log 7). -/
opaque Config.refMeta : Nat → Metadata

/-- The free value an output read while `STATE = BUSY` returns (R215, "a draw under no law"): the n-th draw (log 11). -/
opaque Config.freeRead : Nat → BitVec 64

/-- The free value a read of `META_OUT` returns while `MV = 0` (R46 gives it no value): the n-th draw (log 13). -/
opaque Config.freeMeta : Nat → Metadata

end Sys2Proof
end

