-- ==== Sys2Proof/Machine/Float64.lean ====
section
/-! DEFINITION. Rounding of exact rationals to binary64, to nearest with ties to even (00_scope.md R12). A rational is
given as a sign, a numerator and a denominator, so that every step is natural-number arithmetic. -/

namespace Sys2Proof.Machine

/-- `a / b` rounded to the nearest natural number, ties to the even one. -/
def roundHalfEven (a b : Nat) : Nat :=
  let q := a / b
  let r := a % b
  if 2 * r < b then q
  else if b < 2 * r then q + 1
  else q + q % 2

/-- The exponent e with `2^e ≤ n / d < 2^(e+1)`, for n and d positive. -/
def floorLog2 (n d : Nat) : Int :=
  let e : Int := (Nat.log2 n : Int) - (Nat.log2 d : Int)
  if n * 2 ^ (-e).toNat < d * 2 ^ e.toNat then e - 1 else e

/-- The exponent of the last place of the binary64 numbers around `n / d`: 52 below the leading bit, at least that of
the subnormals. -/
def ulpExponent (n d : Nat) : Int := max (floorLog2 n d) (-1022) - 52

/-- The bits of the magnitude of `rne (n / d)`, for n and d positive: the exponent field counts from the subnormals'
last place, so a carry out of the significand moves into it; too large a value is infinity. -/
def rneMagnitude (n d : Nat) : Nat :=
  let u := ulpExponent n d
  let m := roundHalfEven (n * 2 ^ (-u).toNat) (d * 2 ^ u.toNat)
  min ((u + 1074).toNat * 2 ^ 52 + m) (0x7FF * 2 ^ 52)

/-- `rne(± n / d)` (R12). Zero is +0.0 (R144). -/
def rne (neg : Bool) (n d : Nat) : F64 :=
  if n = 0 then 0#64
  else BitVec.ofNat 64 (rneMagnitude n d + if neg then 2 ^ 63 else 0)

/-- The significand of a binary64 value, with its leading bit where it is normal. -/
def f64Significand (b : F64) : Nat :=
  let e := (b.toNat / 2 ^ 52) % 2 ^ 11
  let m := b.toNat % 2 ^ 52
  if e = 0 then m else 2 ^ 52 + m

/-- The exponent of the last place of a binary64 value. -/
def f64Exponent (b : F64) : Int :=
  let e := (b.toNat / 2 ^ 52) % 2 ^ 11
  (max e 1 : Nat) - 1075

/-- The numerator of the magnitude of a finite binary64 value as a fraction. -/
def f64Num (b : F64) : Nat := f64Significand b * 2 ^ (f64Exponent b).toNat

/-- The denominator of the magnitude of a finite binary64 value as a fraction. -/
def f64Den (b : F64) : Nat := 2 ^ (-(f64Exponent b)).toNat

end Sys2Proof.Machine
end

