-- ==== Sys2Proof/Machine/Memory.lean ====
section
/-! DEFINITION. Message bytes and result slots as rising lists of pairs (20_memory.md R50, R51; 10_state.md R27). -/

namespace Sys2Proof.Machine

/-- The keys of a list of pairs rise strictly. -/
abbrev Rising {α : Type} (l : List (Nat × α)) : Prop := l.Pairwise fun p q => p.1 < q.1

/-- The value listed at a key. -/
def lookupKey {α : Type} (l : List (Nat × α)) (k : Nat) : Option α :=
  match l with
  | [] => none
  | (n, v) :: rest => if n = k then some v else lookupKey rest k

/-- The list with a value placed at a key, in its place. -/
def insertKey {α : Type} (k : Nat) (v : α) (l : List (Nat × α)) : List (Nat × α) :=
  match l with
  | [] => [(k, v)]
  | (n, w) :: rest =>
    if k < n then (k, v) :: (n, w) :: rest
    else if k = n then (k, v) :: rest
    else (n, w) :: insertKey k v rest

/-- The list without a key. -/
def eraseKey {α : Type} (k : Nat) (l : List (Nat × α)) : List (Nat × α) := l.filter fun p => p.1 != k

/-- A byte memory of `MSG_MAX` bytes: the pairs list what differs from 0 (log 10). -/
abbrev Memory := List Host.Cell

/-- The canonical form: rising addresses below `MSG_MAX`, no byte equal to what an unlisted address reads as. -/
abbrev Memory.wf (m : Memory) : Prop := Rising m ∧ ∀ p ∈ m, p.1 < Config.msgMax ∧ p.2 ≠ 0#8

/-- What an unlisted address reads as (log 10). -/
def Memory.unlisted : Byte := 0#8

/-- The byte at an address. -/
def Memory.read (m : Memory) (a : Nat) : Byte := (lookupKey m a).getD Memory.unlisted

/-- The memory with a byte written. -/
def Memory.write (m : Memory) (a : Nat) (b : Byte) : Memory :=
  if b = Memory.unlisted then eraseKey a m else insertKey a b m

/-- The latch of R23: bytes below `len` come from the buffer, the others stay (log 24). -/
def Memory.latch (buf old : Memory) (len : Nat) : Memory :=
  (buf.filter fun p => p.1 < len) ++ (old.filter fun p => len ≤ p.1)

/-- A file of result slots: the present keys with their values; an absent slot holds no value (R27, R31). -/
abbrev ResultFile := List (Nat × F64)

/-- The canonical form: rising keys, slot 0 absent, keys of 8 bits (R27). -/
abbrev ResultFile.wf (f : ResultFile) : Prop := Rising f ∧ ∀ p ∈ f, 0 < p.1 ∧ p.1 < Config.resSlots

/-- `PRESENT[k]`. -/
def ResultFile.present (f : ResultFile) (k : Nat) : Bool := (lookupKey f k).isSome

/-- `PRESENT[k] <- 1`, `VALUE[k] <- v`. Slot 0 is hardwired absent: nothing is written there (R27, log 16). -/
def ResultFile.put (f : ResultFile) (key : Key) (v : F64) : ResultFile :=
  if key = 0#8 then f else insertKey key.toNat v f

end Sys2Proof.Machine
end

