-- ==== Sys2Proof/Syntax.lean ====
section
/-! DEFINITION. The instructions of the FDVLD: one constructor per row of spec/opcode_table.json (30_encoding.md R87). -/

namespace Sys2Proof

/-- The nine conversion kinds (R84). -/
inductive Kind where
  | u8Raw
  | s16Q12
  | s16Q8
  | u16Q8
  | u16P4
  | u8Pct
  | u16Raw
  | u16Pct
  | fp16Eng
deriving DecidableEq, Repr, Inhabited

/-- The rows of the opcode table. A kind row's operand is the output key of its descriptor, `D[11:4]` (R83); the
other rows have no operand: what they read stands in the registry, the snapshot and the engine's registers. -/
inductive Instr where
  | fmtP2
  | fmtP3
  | fmt0x11
  | fmt0x14
  | fmt0x15
  | normIdentity
  | normIns2
  | kindNone
  | u8Raw (key : Key)
  | s16Q12 (key : Key)
  | s16Q8 (key : Key)
  | u16Q8 (key : Key)
  | u16P4 (key : Key)
  | u8Pct (key : Key)
  | u16Raw (key : Key)
  | u16Pct (key : Key)
  | fp16Eng (key : Key)
  | f14VBat
  | f14Boot
  | f15VBat
  | f15Boot
  | f15Env
  | f15Lux
  | f15TWater
  | f15Soil
deriving DecidableEq, Repr, Inhabited

/-- Where an instruction's word stands: each table of R87 has its own. `port` is `P` with `PV = 1`; `byte` is `M[0]`;
`header` is `H`; `descriptor` is `D`; `flags14` and `flags15` are the flag bit `1 << k` within format 0x14 and 0x15. -/
inductive Source where
  | port
  | byte
  | header
  | descriptor
  | flags14
  | flags15
deriving DecidableEq, Repr, Inhabited

end Sys2Proof
end

