-- ==== Sys2Proof/WellFormed.lean ====
section
/-! DEFINITION. Which instructions a loaded registry can hold: key id 0 is reserved (30_encoding.md R92, 42_registry.md
R160 W6). -/

namespace Sys2Proof

/-- A kind row names a key other than 0; every other row is well formed as it stands. -/
def Instr.WellFormed (i : Instr) : Bool :=
  match i with
  | .u8Raw key | .s16Q12 key | .s16Q8 key | .u16Q8 key | .u16P4 key
  | .u8Pct key | .u16Raw key | .u16Pct key | .fp16Eng key => key != 0#8
  | .fmtP2 | .fmtP3 | .fmt0x11 | .fmt0x14 | .fmt0x15 | .normIdentity | .normIns2 | .kindNone
  | .f14VBat | .f14Boot | .f15VBat | .f15Boot | .f15Env | .f15Lux | .f15TWater | .f15Soil => true

end Sys2Proof
end

