-- ==== Sys2Proof/Decode.lean ====
section
/-! DEFINITION. Decoding and encoding of header words, descriptor words, format codes and flag bits (30_encoding.md
R81 to R89), each in the table it belongs to (R87). -/

namespace Sys2Proof

/-- Why a word is no instruction of its table (R88 to R91). -/
inductive DecodeError where
  /-- `D[15:12]` is not zero (R83, R88). -/
  | reservedDescriptorBits
  /-- `KIND` is 0xA to 0xF (R84, R88). -/
  | reservedKind
  /-- a NONE descriptor names a key (R83, R88). -/
  | keyOnNone
  /-- `NORM` is `10` or `11` (R82, R89). -/
  | reservedNorm
  /-- `H[15:12]` or `H[31:24]` is not zero (R81, R89). -/
  | reservedHeaderBits
  /-- no format row has this port or format code (R91). -/
  | unknownFormat
  /-- no slot row of the format has this flag bit (R90). -/
  | unassignedFlag
  /-- the word is wider than its table's words. -/
  | wordTooWide
deriving DecidableEq, Repr, Inhabited

/-! Fields of a descriptor word (R83). -/

def descKind (d : Half) : BitVec 4 := d.extractLsb' 0 4
def descKey (d : Half) : Key := d.extractLsb' 4 8
def descReserved (d : Half) : BitVec 4 := d.extractLsb' 12 4

/-! Fields of a header word (R81). -/

def headerByteVal (h : HeaderWord) : Byte := h.extractLsb' 0 8
def headerByteEn (h : HeaderWord) : Bool := h.getLsbD 8
def headerPortEn (h : HeaderWord) : Bool := h.getLsbD 9
def headerNorm (h : HeaderWord) : BitVec 2 := h.extractLsb' 10 2
def headerPortVal (h : HeaderWord) : Byte := h.extractLsb' 16 8
def headerReservedLow (h : HeaderWord) : BitVec 4 := h.extractLsb' 12 4
def headerReservedHigh (h : HeaderWord) : Byte := h.extractLsb' 24 8

/-- The KIND codes (R84). -/
def Kind.code (k : Kind) : BitVec 4 :=
  match k with
  | .u8Raw => 0x1#4
  | .s16Q12 => 0x2#4
  | .s16Q8 => 0x3#4
  | .u16Q8 => 0x4#4
  | .u16P4 => 0x5#4
  | .u8Pct => 0x6#4
  | .u16Raw => 0x7#4
  | .u16Pct => 0x8#4
  | .fp16Eng => 0x9#4

/-- The sub-value a kind row reads: its kind and its key; none for every other row. -/
def Instr.sub? (i : Instr) : Option (Kind × Key) :=
  match i with
  | .u8Raw key => some (.u8Raw, key)
  | .s16Q12 key => some (.s16Q12, key)
  | .s16Q8 key => some (.s16Q8, key)
  | .u16Q8 key => some (.u16Q8, key)
  | .u16P4 key => some (.u16P4, key)
  | .u8Pct key => some (.u8Pct, key)
  | .u16Raw key => some (.u16Raw, key)
  | .u16Pct key => some (.u16Pct, key)
  | .fp16Eng key => some (.fp16Eng, key)
  | .fmtP2 | .fmtP3 | .fmt0x11 | .fmt0x14 | .fmt0x15 | .normIdentity | .normIns2 | .kindNone
  | .f14VBat | .f14Boot | .f15VBat | .f15Boot | .f15Env | .f15Lux | .f15TWater | .f15Soil => none

/-- The row of the kind table with this KIND code (R84), given the descriptor's key; `none` for a reserved code.
KIND 0 with a key is no instruction (R83). -/
def decodeDescriptor (d : Half) : Except DecodeError Instr :=
  if descReserved d ≠ 0#4 then .error .reservedDescriptorBits
  else
    match (descKind d).toNat with
    | 0x0 => if descKey d = 0#8 then .ok .kindNone else .error .keyOnNone
    | 0x1 => .ok (.u8Raw (descKey d))
    | 0x2 => .ok (.s16Q12 (descKey d))
    | 0x3 => .ok (.s16Q8 (descKey d))
    | 0x4 => .ok (.u16Q8 (descKey d))
    | 0x5 => .ok (.u16P4 (descKey d))
    | 0x6 => .ok (.u8Pct (descKey d))
    | 0x7 => .ok (.u16Raw (descKey d))
    | 0x8 => .ok (.u16Pct (descKey d))
    | 0x9 => .ok (.fp16Eng (descKey d))
    | _ => .error .reservedKind

/-- The normalisation row of a header word (R82). -/
def decodeHeader (h : HeaderWord) : Except DecodeError Instr :=
  if headerReservedLow h ≠ 0#4 ∨ headerReservedHigh h ≠ 0#8 then .error .reservedHeaderBits
  else
    match (headerNorm h).toNat with
    | 0 => .ok .normIdentity
    | 1 => .ok .normIns2
    | _ => .error .reservedNorm

/-- The port-keyed format rows (R162, R163). -/
def decodePort (p : Byte) : Except DecodeError Instr :=
  match p.toNat with
  | 2 => .ok .fmtP2
  | 3 => .ok .fmtP3
  | _ => .error .unknownFormat

/-- The byte-keyed format rows (R164 to R166). -/
def decodeByte (b : Byte) : Except DecodeError Instr :=
  match b.toNat with
  | 0x11 => .ok .fmt0x11
  | 0x14 => .ok .fmt0x14
  | 0x15 => .ok .fmt0x15
  | _ => .error .unknownFormat

/-- The slot rows of format 0x14, by the flag bit's weight (R173). -/
def decodeFlags14 (f : Flags9) : Except DecodeError Instr :=
  match f.toNat with
  | 0x001 => .ok .f14VBat
  | 0x004 => .ok .f14Boot
  | _ => .error .unassignedFlag

/-- The slot rows of format 0x15, by the flag bit's weight (R167 to R172). -/
def decodeFlags15 (f : Flags9) : Except DecodeError Instr :=
  match f.toNat with
  | 0x001 => .ok .f15VBat
  | 0x004 => .ok .f15Boot
  | 0x008 => .ok .f15Env
  | 0x010 => .ok .f15Lux
  | 0x020 => .ok .f15TWater
  | 0x040 => .ok .f15Soil
  | _ => .error .unassignedFlag

/-- The width in bits of a table's words (R81, R83, R36). -/
def Source.width (src : Source) : Nat :=
  match src with
  | .port | .byte => 8
  | .header => 32
  | .descriptor => 16
  | .flags14 | .flags15 => 9

/-- The instruction a word is in a given table: total, rejecting by name. -/
def decode (src : Source) (w : Nat) : Except DecodeError Instr :=
  if 2 ^ src.width ≤ w then .error .wordTooWide
  else
    match src with
    | .port => decodePort (BitVec.ofNat 8 w)
    | .byte => decodeByte (BitVec.ofNat 8 w)
    | .header => decodeHeader (BitVec.ofNat 32 w)
    | .descriptor => decodeDescriptor (BitVec.ofNat 16 w)
    | .flags14 => decodeFlags14 (BitVec.ofNat 9 w)
    | .flags15 => decodeFlags15 (BitVec.ofNat 9 w)

/-- A descriptor word from its fields, reserved bits zero (R83). -/
def encodeDescriptor (code : BitVec 4) (key : Key) : Half := 0#4 ++ key ++ code

/-- The table and the word of an instruction (R81 to R84, R162 to R173). -/
def encode (i : Instr) : Source × Nat :=
  match i with
  | .fmtP2 => (.port, 2)
  | .fmtP3 => (.port, 3)
  | .fmt0x11 => (.byte, 0x11)
  | .fmt0x14 => (.byte, 0x14)
  | .fmt0x15 => (.byte, 0x15)
  | .normIdentity => (.header, 0x0000)
  | .normIns2 => (.header, 0x0400)
  | .kindNone => (.descriptor, 0x0000)
  | .u8Raw key => (.descriptor, (encodeDescriptor Kind.u8Raw.code key).toNat)
  | .s16Q12 key => (.descriptor, (encodeDescriptor Kind.s16Q12.code key).toNat)
  | .s16Q8 key => (.descriptor, (encodeDescriptor Kind.s16Q8.code key).toNat)
  | .u16Q8 key => (.descriptor, (encodeDescriptor Kind.u16Q8.code key).toNat)
  | .u16P4 key => (.descriptor, (encodeDescriptor Kind.u16P4.code key).toNat)
  | .u8Pct key => (.descriptor, (encodeDescriptor Kind.u8Pct.code key).toNat)
  | .u16Raw key => (.descriptor, (encodeDescriptor Kind.u16Raw.code key).toNat)
  | .u16Pct key => (.descriptor, (encodeDescriptor Kind.u16Pct.code key).toNat)
  | .fp16Eng key => (.descriptor, (encodeDescriptor Kind.fp16Eng.code key).toNat)
  | .f14VBat => (.flags14, 0x001)
  | .f14Boot => (.flags14, 0x004)
  | .f15VBat => (.flags15, 0x001)
  | .f15Boot => (.flags15, 0x004)
  | .f15Env => (.flags15, 0x008)
  | .f15Lux => (.flags15, 0x010)
  | .f15TWater => (.flags15, 0x020)
  | .f15Soil => (.flags15, 0x040)

/-- Decoding of a word whose table is not known: the first table of a list that has a well-formed instruction for it,
else the first that has any. -/
def decodeIn (srcs : List Source) (w : Nat) : Option Instr :=
  let hits := srcs.filterMap fun src => (decode src w).toOption
  match hits.find? Instr.WellFormed with
  | some i => some i
  | none => hits.head?

/-- The opcode table numbers the words of four tables from bit 0 (R87), so one word can be a row of several; which
table is meant stands in the machine, not in the word. This function tries the tables in a fixed order (log 6): for a
byte the format codes, the flag bits, the port and then the descriptor; for two bytes the normalisation rows when no
bit but `NORM` is set, then the flag bits and the descriptor; for more the header. -/
def decodeTableWord (nbits w : Nat) : Option Instr :=
  if nbits ≤ 8 then
    if w = 0 then decodeIn [.descriptor] w
    else decodeIn [.byte, .flags15, .port, .flags14, .descriptor] w
  else if w &&& 0xF3FF = 0 then decodeIn [.header] w
  else if nbits ≤ 16 then decodeIn [.flags15, .flags14, .descriptor] w
  else decodeIn [.header] w

end Sys2Proof
end

