-- ==== Sys2Proof/Machine/Registry.lean ====
section
/-! DEFINITION. The Format Registry: entries as words, the load checks W1 to W10, the reference registry REF
(30_encoding.md R81 to R85, 42_registry.md R160 to R176). -/

namespace Sys2Proof.Machine

/-- A slot: three descriptor words (R85). -/
structure Slot where
  d0 : Half
  d1 : Half
  d2 : Half
deriving DecidableEq, Repr, Inhabited

/-- An entry: the header and the slots gated by flag bits 0 to 7 (R24, R81). -/
structure Entry where
  header : HeaderWord
  slot0 : Slot
  slot1 : Slot
  slot2 : Slot
  slot3 : Slot
  slot4 : Slot
  slot5 : Slot
  slot6 : Slot
  slot7 : Slot
deriving DecidableEq, Repr, Inhabited

/-- The configuration loaded at startup: `REG[0 .. REG_COUNT-1]`, `KEYNAME` and `META` (R24 to R26). `REG_COUNT` is
the length of `entries`. -/
structure Configuration where
  entries : List Entry
  keyName : List (Nat × String)
  metas : List Metadata
deriving DecidableEq, Repr, Inhabited

/-- A slot with no sub-value (R85). -/
def Slot.unassigned : Slot := { d0 := 0x0000#16, d1 := 0x0000#16, d2 := 0x0000#16 }

/-- Descriptors 0, 1, 2 of a slot. -/
def Slot.descs (sl : Slot) : List Half := [sl.d0, sl.d1, sl.d2]

/-- Descriptor j of a slot; NONE beyond the three. -/
def Slot.desc (sl : Slot) (j : Nat) : Half :=
  match j with
  | 0 => sl.d0
  | 1 => sl.d1
  | 2 => sl.d2
  | _ => 0x0000#16

/-- The sub-values of a slot: the leading descriptors with `KIND ≠ 0` (R85, R100 `NSUB`). -/
def Slot.subDescs (sl : Slot) : List Half := sl.descs.takeWhile fun d => descKind d != 0#4

/-- Slot k of an entry; there is no slot above 7 (R109: bit 8 is never assigned). -/
def Entry.slot (en : Entry) (k : Nat) : Slot :=
  match k with
  | 0 => en.slot0
  | 1 => en.slot1
  | 2 => en.slot2
  | 3 => en.slot3
  | 4 => en.slot4
  | 5 => en.slot5
  | 6 => en.slot6
  | 7 => en.slot7
  | _ => Slot.unassigned

/-- The slots in order. -/
def Entry.slots (en : Entry) : List Slot :=
  [en.slot0, en.slot1, en.slot2, en.slot3, en.slot4, en.slot5, en.slot6, en.slot7]

/-- The 24 descriptor words, descriptor j of slot k at position 3k + j (R81). -/
def Entry.descs (en : Entry) : List Half := en.slots.flatMap Slot.descs

/-- `ASSIGNED(e, k)` (R100): the slot's first descriptor is not NONE. -/
def Entry.assigned (en : Entry) (k : Nat) : Bool := descKind (en.slot k).d0 != 0#4

/-- The keys an entry's descriptors name (R92). -/
def Entry.keys (en : Entry) : List Key :=
  (en.descs.filter fun d => descKind d != 0#4).map descKey

/-- What a lookup compares: (`BYTE_EN`, `BYTE_VAL`, `PORT_EN`, `PORT_VAL`) (R160 W5). -/
def Entry.selector (en : Entry) : Bool × Byte × Bool × Byte :=
  (headerByteEn en.header, headerByteVal en.header, headerPortEn en.header, headerPortVal en.header)

/-- The string found for a number in a table of names. -/
def findName (names : List (Nat × String)) (k : Nat) : Option String :=
  match names with
  | [] => none
  | (n, name) :: rest => if n = k then some name else findName rest k

/-! The load checks of R160. -/

def Configuration.checkW1 (c : Configuration) : Bool := decide (c.entries.length ≤ Config.regMax)

def Configuration.checkW2 (c : Configuration) : Bool :=
  c.entries.all fun en =>
    headerReservedLow en.header == 0#4 && headerReservedHigh en.header == 0#8 &&
      decide ((headerNorm en.header).toNat ≤ 1)

def Configuration.checkW3 (c : Configuration) : Bool :=
  c.entries.all fun en => headerByteEn en.header || headerPortEn en.header

def Configuration.checkW4 (c : Configuration) : Bool :=
  c.entries.all fun en =>
    (headerByteEn en.header || headerByteVal en.header == 0#8) &&
      (headerPortEn en.header || headerPortVal en.header == 0#8)

def Configuration.checkW5 (c : Configuration) : Bool := decide (c.entries.map Entry.selector).Nodup

def Configuration.checkW6 (c : Configuration) : Bool :=
  c.entries.all fun en => en.descs.all fun d =>
    descReserved d == 0#4 && decide ((descKind d).toNat ≤ 9) && ((descKey d == 0#8) == (descKind d == 0#4))

def Configuration.checkW7 (c : Configuration) : Bool :=
  c.entries.all fun en => en.slots.all fun sl =>
    (descKind sl.d0 != 0#4 || (descKind sl.d1 == 0#4 && descKind sl.d2 == 0#4)) &&
      (descKind sl.d1 != 0#4 || descKind sl.d2 == 0#4)

def Configuration.checkW8 (c : Configuration) : Bool := c.entries.all fun en => decide en.keys.Nodup

def Configuration.checkW9 (c : Configuration) : Bool :=
  c.entries.all fun en => en.keys.all fun key => (findName c.keyName key.toNat).isSome

def Configuration.checkW10 (c : Configuration) : Bool := decide (c.entries.length ≤ c.metas.length)

/-- A registry is loaded only if every check of R160 holds. -/
def Configuration.wellFormed (c : Configuration) : Bool :=
  c.checkW1 && c.checkW2 && c.checkW3 && c.checkW4 && c.checkW5 && c.checkW6 && c.checkW7 && c.checkW8 &&
    c.checkW9 && c.checkW10

/-! The reference registry REF (R161 to R173). -/

/-- An entry whose eight slots are unassigned. -/
def Entry.bare (h : HeaderWord) : Entry :=
  { header := h, slot0 := Slot.unassigned, slot1 := Slot.unassigned, slot2 := Slot.unassigned,
    slot3 := Slot.unassigned, slot4 := Slot.unassigned, slot5 := Slot.unassigned, slot6 := Slot.unassigned,
    slot7 := Slot.unassigned }

/-- A slot of one sub-value. -/
def Slot.one (d : Half) : Slot := { d0 := d, d1 := 0x0000#16, d2 := 0x0000#16 }

/-- `FMT_P2` (R162). -/
def entryP2 : Entry := Entry.bare 0x00020200#32

/-- `FMT_P3` (R163). -/
def entryP3 : Entry := Entry.bare 0x00030200#32

/-- `FMT_0x11` (R164). -/
def entry0x11 : Entry := Entry.bare 0x00000111#32

/-- `FMT_0x14` (R165, R173). -/
def entry0x14 : Entry :=
  { Entry.bare 0x00000114#32 with slot0 := Slot.one 0x0012#16, slot2 := Slot.one 0x0021#16 }

/-- The descriptor of tSoil in format 0x15, by the parameter `SOIL_T_KIND_0x15` (R172). -/
def soilDescriptor (soil : SoilKind) : Half :=
  match soil with
  | .s16Q8 => 0x0083#16
  | .u16Q8 => 0x0084#16

/-- `FMT_0x15` (R166 to R172). -/
def entry0x15 (soil : SoilKind) : Entry :=
  { Entry.bare 0x00000115#32 with
    slot0 := Slot.one 0x0012#16
    slot2 := Slot.one 0x0021#16
    slot3 := { d0 := 0x0033#16, d1 := 0x0045#16, d2 := 0x0056#16 }
    slot4 := Slot.one 0x0067#16
    slot5 := Slot.one 0x0073#16
    slot6 := { d0 := soilDescriptor soil, d1 := 0x0096#16, d2 := 0x0000#16 } }

/-- The entries of REF, in order (R161). -/
def refEntries (soil : SoilKind) : List Entry := [entryP2, entryP3, entry0x11, entry0x14, entry0x15 soil]

/-- `KEYNAME` of REF: the table of R30 for ids 1 to 9 (R175). -/
def refKeyName : List (Nat × String) :=
  [(0x01, "vBat"), (0x02, "boot"), (0x03, "t"), (0x04, "p"), (0x05, "rh"), (0x06, "lux"), (0x07, "tWater"),
    (0x08, "tSoil"), (0x09, "rhSoil")]

/-- REF with the OPEN parameter `META` (R175) and the parameter `SOIL_T_KIND_0x15` (R172). -/
def refConfig (soil : SoilKind) : Configuration :=
  { entries := refEntries soil
    keyName := refKeyName
    metas := [Config.refMeta 0, Config.refMeta 1, Config.refMeta 2, Config.refMeta 3, Config.refMeta 4] }

/-! Registry entry words from their fields (R81, R83, R96). -/

/-- The header word of an entry keyed by a byte, a port or both; absent selectors have value 0 (R81). -/
def buildHeader (byte : Option Byte) (port : Option Byte) (norm : BitVec 2) : HeaderWord :=
  0#8 ++ port.getD 0#8 ++ 0#4 ++ norm ++ BitVec.ofBool port.isSome ++ BitVec.ofBool byte.isSome ++ byte.getD 0#8

/-- The slot of a list of key and kind pairs, in order (R96). A slot holds at most `SUB_MAX = 3` (R8), so a list of four or
more cannot be configured and the spec names no outcome for it: the first three are kept (DESIGN CHOICE, log 34). -/
def buildSlot (subs : List (Key × Kind)) : Slot :=
  match subs with
  | [] => Slot.unassigned
  | [(a, ka)] => Slot.one (encodeDescriptor ka.code a)
  | [(a, ka), (b, kb)] => { d0 := encodeDescriptor ka.code a, d1 := encodeDescriptor kb.code b, d2 := 0x0000#16 }
  | (a, ka) :: (b, kb) :: (c, kc) :: _ =>
    { d0 := encodeDescriptor ka.code a, d1 := encodeDescriptor kb.code b, d2 := encodeDescriptor kc.code c }

/-- A registry entry in the notation of R96: the selectors, the normalisation rule, and one list per slot. -/
def buildEntry (byte : Option Byte) (port : Option Byte) (norm : BitVec 2) (slots : Nat → List (Key × Kind)) : Entry :=
  { header := buildHeader byte port norm
    slot0 := buildSlot (slots 0)
    slot1 := buildSlot (slots 1)
    slot2 := buildSlot (slots 2)
    slot3 := buildSlot (slots 3)
    slot4 := buildSlot (slots 4)
    slot5 := buildSlot (slots 5)
    slot6 := buildSlot (slots 6)
    slot7 := buildSlot (slots 7) }

end Sys2Proof.Machine
end

