-- ==== Sys2Proof/Machine/State.lean ====
section
/-! DEFINITION. The state of the FDVLD in the five classes of 10_state.md R20, the stop reasons, and the state after
reset (R48, 70_reset_and_hazards.md R210). -/

namespace Sys2Proof.Machine

/-- The inputs, written by the transport (R21 to R23). -/
structure Inputs where
  /-- `MSG_BUF`. -/
  msgBuf : Memory
  /-- `MSG_LEN`. -/
  msgLen : Byte
  /-- `PORT_VALID`. -/
  portValid : Bool
  /-- `PORT`. -/
  port : Byte
  /-- `START`, the one-shot command: 1 where the next step is to act on it. -/
  start : Bool
deriving DecidableEq, Repr, Inhabited

/-- The snapshot START latches (R23). -/
structure Snapshot where
  /-- `M`. -/
  mem : Memory
  /-- `L`. -/
  len : Byte
  /-- `PV`. -/
  portValid : Bool
  /-- `P`. -/
  port : Byte
deriving DecidableEq, Repr, Inhabited

/-- Which operation of R100 a DECODE in progress performs next: the model's own sequencing state of a multi-cycle
implementation (R37, R123; log 2). -/
inductive Phase where
  /-- no DECODE in progress. -/
  | idle
  /-- LOOKUP and the dispatch (R102). -/
  | lookup
  /-- FETCH_FLAGS (R105). -/
  | flags
  /-- the normalisation (R106, R107). -/
  | norm
  /-- CHECK_ASSIGNED (R109). -/
  | check
  /-- the walk tests `FLAGN[BIT]` (R110). -/
  | walk
  /-- EXEC_SLOT of slot `BIT` in one step (R112). -/
  | slot
  /-- descriptor `SUB` of slot `BIT` (R112). -/
  | sub
deriving DecidableEq, Repr, Inhabited

/-- The internal sequencing state (R33 to R37). -/
structure Engine where
  /-- `CUR`. -/
  cur : Byte
  /-- `FLAGN`. -/
  flagN : Flags9
  /-- `BIT`. -/
  bit : BitVec 4
  /-- `SUB`. -/
  sub : BitVec 2
  /-- `PEND_PRESENT`, `PEND_VALUE`. -/
  pend : ResultFile
  phase : Phase
deriving DecidableEq, Repr, Inhabited

/-- `STATUS.STATE` (R39). -/
inductive DecoderState where
  | idle
  | busy
  | done
  | error
deriving DecidableEq, Repr, Inhabited

/-- The error kinds of `ERRCODE` (R40). -/
inductive ErrCode where
  | none
  | unknownFormat
  | truncatedBuffer
  | unassignedFlag
deriving DecidableEq, Repr, Inhabited

/-- The output registers (R35 to R46). -/
structure Outputs where
  /-- `STATUS.STATE`. -/
  state : DecoderState
  /-- `STATUS.FV`. -/
  fv : Bool
  /-- `STATUS.MV`. -/
  mv : Bool
  /-- `ERRCODE`. -/
  errCode : ErrCode
  /-- `ERR_BIT`. -/
  errBit : BitVec 4
  /-- `ERR_CURSOR`. -/
  errCursor : Byte
  /-- `ERR_NEED`. -/
  errNeed : BitVec 2
  /-- `FMT_INDEX`. -/
  fmtIndex : Byte
  /-- `FLAGS_RAW`. -/
  flagsRaw : Byte
  /-- `FLAGS_NORM`. -/
  flagsNorm : Flags9
  /-- `CONSUMED`. -/
  consumed : Byte
  /-- `RES_PRESENT`, `RES_VALUE`. -/
  res : ResultFile
deriving DecidableEq, Repr, Inhabited

/-- What the host can read (R25, R46, R47). -/
inductive HostReg where
  | status
  | errCode
  | errBit
  | errCursor
  | errNeed
  | fmtIndex
  | flagsRaw
  | flagsNorm
  | consumed
  | resPresent (k : Byte)
  | resValue (k : Byte)
  | metaOut
  | keyName (k : Byte)
deriving DecidableEq, Repr, Inhabited

/-- What the host's last read returned (log 4). -/
inductive HostData where
  | nothing
  | word (v : BitVec 64)
  | metadata (m : Metadata)
  | name (s : String)
deriving DecidableEq, Repr, Inhabited

/-- One access of the host to the block (R47, R194, R210; log 4). -/
inductive HostReq where
  /-- no access: the block runs for one step. -/
  | idle
  | writeMsg (i : Byte) (b : Byte)
  | writeLen (n : Byte)
  | writePortValid (v : Bool)
  | writePort (p : Byte)
  /-- asserts START. -/
  | start
  | read (r : HostReg)
  /-- a write of the configuration after reset. -/
  | writeConfig (c : Configuration)
  /-- reset with the configuration its source supplies. -/
  | reset (c : Configuration)
deriving DecidableEq, Repr, Inhabited

/-- The state: the five classes of R20 and the model's own fields (phase in `engine`, `bus`, `hostData`, `draws`). -/
structure State where
  inputs : Inputs
  config : Configuration
  /-- the parameter `IMPL_MULTICYCLE` (R8, log 1). -/
  impl : Impl
  snap : Snapshot
  engine : Engine
  out : Outputs
  /-- the block is held in reset (R210, R212); the model has no step from there (log 15). -/
  inReset : Bool
  /-- the host's pending accesses, oldest first (log 4). -/
  bus : List HostReq
  hostData : HostData
  /-- how many free values were drawn (log 11). -/
  draws : Nat
deriving DecidableEq, Repr, Inhabited

/-- Why the machine stops with a fault. Each is safe: the spec gives the access no value, so nothing is provable about
what follows. -/
inductive Fault where
  /-- a host read of `RES_VALUE[k]` with `RES_PRESENT[k] = 0`; raised by `readReg` (R31, R200). Safe. -/
  | absentSlot (k : Byte)
  /-- a registry access at or above `REG_COUNT`; raised by the operations that read `REG[e]` (R24). Safe; no run from
  reset meets it. -/
  | noSuchEntry
  /-- a host write of `MSG_BUF[255]`, which does not exist; raised by `access` (R21, log 23). Safe. -/
  | noSuchByte
  /-- a host read of a `KEYNAME[k]` the configuration does not define; raised by `readReg` (R25, log 14). Safe. -/
  | noSuchKeyName (k : Byte)
deriving DecidableEq, Repr, Inhabited

/-- Why the machine refuses a step. Each is safe: the model has no step there (93, "refuse"). -/
inductive Refusal where
  /-- an instruction without a meaning in `exec`; raised by a dispatch arm only. Safe. -/
  | notModelled (mnemonic : String)
  /-- START while `STATE = BUSY`; raised by `engineStep` (R216). Safe. -/
  | startWhileBusy
  /-- START while the block is held in reset; raised by `hostStep` (R210, R212). Safe. -/
  | startInReset
  /-- any other step while the block is held in reset; raised by `hostStep` (R210). Safe. -/
  | heldInReset
  /-- a reset with a configuration that fails a check of R160; raised by `doReset` (R200, R210). Safe. -/
  | registryRefused
  /-- a message longer than `MSG_MAX` bytes, which cannot be presented; raised by `presentMessage` (R8, R21). Safe. -/
  | messageTooLong
  /-- a configuration write after reset; raised by `access` (R194, R200). Safe. -/
  | configWrite
  /-- a reserved descriptor or header word met by a DECODE, which the load checks exclude (R88, R89); raised by
  `runSubs` and `runFetched` (log 17). Safe; no run from reset meets it. -/
  | reservedEncoding (e : DecodeError)
deriving DecidableEq, Repr, Inhabited

/-- The outcome of a step of this machine. -/
abbrev Result := Host.Outcome State Fault Refusal

/-- The reset values of the outputs (R48). -/
def Outputs.reset : Outputs :=
  { state := .idle
    fv := false
    mv := false
    errCode := .none
    errBit := 0xF#4
    errCursor := 0x00#8
    errNeed := 0#2
    fmtIndex := 0xFF#8
    flagsRaw := 0x00#8
    flagsNorm := 0x000#9
    consumed := 0x00#8
    res := [] }

/-- The internal state at reset, which R48 leaves unspecified: zeros (log 8). -/
def Engine.reset : Engine :=
  { cur := 0x00#8, flagN := 0x000#9, bit := 0#4, sub := 0#2, pend := [], phase := .idle }

/-- The snapshot at reset, which R48 leaves unspecified: zeros (log 8). -/
def Snapshot.reset : Snapshot := { mem := [], len := 0x00#8, portValid := false, port := 0x00#8 }

/-- The inputs before the transport has driven them: zeros (log 9). -/
def Inputs.undriven : Inputs :=
  { msgBuf := [], msgLen := 0x00#8, portValid := false, port := 0x00#8, start := false }

/-- The machine right after reset with the reference configuration REF (R48, R210, R211). -/
def State.reset : State :=
  { inputs := Inputs.undriven
    config := refConfig .s16Q8
    impl := .atomic
    snap := Snapshot.reset
    engine := Engine.reset
    out := Outputs.reset
    inReset := false
    bus := []
    hostData := .nothing
    draws := 0 }

end Sys2Proof.Machine
end

