-- ==== Sys2Proof/Machine/Operands.lean ====
section
/-! DEFINITION. Operand assembly: widths, `MemRead`, sign reinterpretation and the float16 split (20_memory.md R52 to
R55, 30_encoding.md R77 to R80, R86). -/

namespace Sys2Proof.Machine

/-- The width of a read (R53: n in 1, 2). -/
inductive Width where
  | one
  | two
deriving DecidableEq, Repr, Inhabited

/-- The number of bytes of a width. -/
def Width.bytes (w : Width) : Nat :=
  match w with
  | .one => 1
  | .two => 2

/-- `WIDTH(KIND)` (R86). -/
def kindWidth (k : Kind) : Width :=
  match k with
  | .u8Raw | .u8Pct => .one
  | .s16Q12 | .s16Q8 | .u16Q8 | .u16P4 | .u16Raw | .u16Pct | .fp16Eng => .two

/-- Two bytes as a raw value, the first most significant (R52, R78). -/
def bigEndian (b0 b1 : Byte) : Half := b0 ++ b1

/-- `MemRead(a, n)` on a snapshot (R53): the raw value, or none when `a + n > L`. -/
def memRead (sn : Snapshot) (a : Nat) (w : Width) : Option Half :=
  if sn.len.toNat < a + w.bytes then none
  else
    match w with
    | .one => some ((sn.mem.read a).setWidth 16)
    | .two => some (bigEndian (sn.mem.read a) (sn.mem.read (a + 1)))

/-- `s16(raw)`: 16-bit two's complement (R11, R79). -/
def s16 (raw : Half) : Int := if raw.getLsbD 15 then (raw.toNat : Int) - 65536 else raw.toNat

/-- `EXP = raw[15:12]` (R80). -/
def fp16Exp (raw : Half) : Nat := (raw.extractLsb' 12 4).toNat

/-- `MANT = raw[11:0]` (R80). -/
def fp16Mant (raw : Half) : Nat := (raw.extractLsb' 0 12).toNat

end Sys2Proof.Machine
end

