-- ==== Sys2Proof/Machine/Convert.lean ====
section
/-! DEFINITION. The nine conversions from a raw value to binary64 (41_field_kinds.md R130 to R140). -/

namespace Sys2Proof.Machine

/-- `U8_RAW` (R132). -/
def convU8Raw (raw : Half) : F64 := rne false raw.toNat 1

/-- `S16_Q12` (R133). -/
def convS16Q12 (raw : Half) : F64 := rne (decide (s16 raw < 0)) (s16 raw).natAbs 4096

/-- `S16_Q8` (R134). -/
def convS16Q8 (raw : Half) : F64 := rne (decide (s16 raw < 0)) (s16 raw).natAbs 256

/-- `U16_Q8`: no sign reinterpretation (R135). -/
def convU16Q8 (raw : Half) : F64 := rne false raw.toNat 256

/-- `U16_P4`: the product is exact, the division rounds (R136). -/
def convU16P4 (raw : Half) : F64 := rne false (raw.toNat * 4) 100

/-- `U8_PCT` (R137). -/
def convU8Pct (raw : Half) : F64 := rne false (raw.toNat * 100) 256

/-- `U16_RAW` (R138). -/
def convU16Raw (raw : Half) : F64 := rne false raw.toNat 1

/-- `U16_PCT`: two roundings, the quotient first (R139). -/
def convU16Pct (raw : Half) : F64 :=
  let q := rne false raw.toNat 65535
  rne false (f64Num q * 100) (f64Den q)

/-- `FP16_ENG`: `MANT / 4096 * 2^(EXP-15) * 3600 * 4` (R140). -/
def convFp16Eng (raw : Half) : F64 := rne false (fp16Mant raw * 2 ^ fp16Exp raw * 14400) (4096 * 2 ^ 15)

/-- `CONVERT(KIND, raw)` (R130). -/
def convert (k : Kind) (raw : Half) : F64 :=
  match k with
  | .u8Raw => convU8Raw raw
  | .s16Q12 => convS16Q12 raw
  | .s16Q8 => convS16Q8 raw
  | .u16Q8 => convU16Q8 raw
  | .u16P4 => convU16P4 raw
  | .u8Pct => convU8Pct raw
  | .u16Raw => convU16Raw raw
  | .u16Pct => convU16Pct raw
  | .fp16Eng => convFp16Eng raw

end Sys2Proof.Machine
end

