-- ==== Sys2Proof/Machine/Flags.lean ====
section
/-! DEFINITION. The flag computations: the two normalisations, the assigned-bit check, and the layout of STATUS and
ERRCODE (40_dispatch_and_walk.md R106 to R109, 10_state.md R38 to R40). -/

namespace Sys2Proof.Machine

/-- `NORM = 00`: the flag byte with bit 8 zero (R106). -/
def normIdentity (f : Byte) : Flags9 := f.setWidth 9

/-- `NORM = 01`: a zero bit inserted at position 2 (R107). -/
def insertZeroAt2 (f : Byte) : Flags9 := ((f.setWidth 9 >>> 2) <<< 3) ||| (f.setWidth 9 &&& 0x003#9)

/-- Bit k of the flags is set and slot k is not assigned (R109). -/
def unassignedAt (en : Entry) (flagN : Flags9) (k : Nat) : Bool := flagN.getLsbD k && !en.assigned k

/-- The lowest set bit of the flags whose slot is not assigned, of bits 0 to 8 (R109). -/
def firstUnassigned (en : Entry) (flagN : Flags9) : Option Nat :=
  [0, 1, 2, 3, 4, 5, 6, 7, 8].find? (unassignedAt en flagN)

/-- The encoding of `STATUS.STATE` (R39). -/
def DecoderState.code (d : DecoderState) : BitVec 2 :=
  match d with
  | .idle => 0b00#2
  | .busy => 0b01#2
  | .done => 0b10#2
  | .error => 0b11#2

/-- A `STATUS` byte from its fields; bits 7 to 4 read 0 (R38). -/
def statusByte (d : DecoderState) (fv mv : Bool) : Byte := 0#4 ++ BitVec.ofBool mv ++ BitVec.ofBool fv ++ d.code

/-- `STATUS` (R38). -/
def Outputs.statusWord (o : Outputs) : Byte := statusByte o.state o.fv o.mv

/-- The codes of `ERRCODE` (R40). -/
def ErrCode.code (e : ErrCode) : Byte :=
  match e with
  | .none => 0x00#8
  | .unknownFormat => 0x01#8
  | .truncatedBuffer => 0x02#8
  | .unassignedFlag => 0x03#8

end Sys2Proof.Machine
end

