-- ==== Sys2Proof/Machine/Ops.lean ====
section
/-! DEFINITION. The operations a DECODE is made of, over snapshot, registry, engine and outputs (40_dispatch_and_walk.md
R100 to R116, 60_exceptions.md R184). -/

namespace Sys2Proof.Machine

/-- An error has been raised in the current DECODE (`ERRCODE` is set; REINIT clears it). -/
def State.raised (s : State) : Bool := s.out.errCode != .none

/-- What follows an operation of a DECODE: nothing after a `raise`, a fault or a refusal (R100, R184). -/
def thenRun (r : Result) (f : State → Result) : Result :=
  match r with
  | .next s => if s.raised then .next s else f s
  | .fault x => .fault x
  | .refused x => .refused x

/-- `raise E(bit, cursor, need)` (R184): the error record is written, the pending result discarded, the DECODE ended.
The slot file, `CONSUMED` and `MV` stay as REINIT left them; `FMT_INDEX`, `FLAGS_RAW`, `FLAGS_NORM` and `FV` as this
DECODE wrote them. -/
def raiseError (e : ErrCode) (bit : BitVec 4) (cursor : Byte) (need : BitVec 2) (s : State) : State :=
  { s with
    engine := { s.engine with pend := [], phase := .idle }
    out := { s.out with
      errCode := e, errBit := bit, errCursor := cursor, errNeed := need, state := .error } }

/-- The latch of START (R23): the snapshot is taken from the inputs and the command is used up. -/
def latch (s : State) : State :=
  { s with
    inputs := { s.inputs with start := false }
    snap :=
      { mem := Memory.latch s.inputs.msgBuf s.snap.mem s.inputs.msgLen.toNat
        len := s.inputs.msgLen
        portValid := s.inputs.portValid
        port := s.inputs.port } }

/-- REINIT (R49, R101): every output at its reset value except `STATUS.STATE`; no pending result. -/
def reinit (s : State) : State :=
  { s with
    engine := { s.engine with pend := [] }
    out := { Outputs.reset with state := s.out.state } }

/-- The start of a DECODE that takes several steps: REINIT, `STATE = BUSY`, LOOKUP next (R49, R101, R123). -/
def beginDecode (s : State) : State :=
  let t := reinit s
  { t with
    engine := { t.engine with phase := .lookup }
    out := { t.out with state := .busy } }

/-- An entry's selectors match the snapshot: the port where `PORT_EN`, the first byte where `BYTE_EN` (R102). -/
def entryMatches (sn : Snapshot) (en : Entry) : Bool :=
  let h := en.header
  let portOk := !headerPortEn h || (sn.portValid && sn.port == headerPortVal h)
  let byteOk := !headerByteEn h || (decide (1 ≤ sn.len.toNat) && sn.mem.read 0 == headerByteVal h)
  portOk && byteOk

/-- The index of the first entry that matches, counting from `i` (R102). -/
def lookupFrom (sn : Snapshot) (entries : List Entry) (i : Nat) : Option Nat :=
  match entries with
  | [] => none
  | en :: rest => if entryMatches sn en then some i else lookupFrom sn rest (i + 1)

/-- LOOKUP (R102): entries in index order, the first match wins. -/
def lookup (c : Configuration) (sn : Snapshot) : Option Nat := lookupFrom sn c.entries 0

/-- Dispatch to entry e and CUR_INIT (R100, R104): `FMT_INDEX <- e`, `CUR <- REG[e].BYTE_EN`. -/
def selectEntry (e : Nat) (s : State) : Result :=
  match s.config.entries[e]? with
  | none => .fault .noSuchEntry
  | some en =>
    .next { s with
      engine := { s.engine with cur := if headerByteEn en.header then 1#8 else 0#8, phase := .flags }
      out := { s.out with fmtIndex := BitVec.ofNat 8 e } }

/-- The selected entry, `REG[FMT_INDEX]`. -/
def State.entry? (s : State) : Option Entry := s.config.entries[s.out.fmtIndex.toNat]?

/-- FETCH_FLAGS (R105): the byte at `CUR` into `FLAGS_RAW`, `FV <- 1`; or TruncatedBuffer tied to no flag bit. -/
def fetchFlags (s : State) : State :=
  match memRead s.snap s.engine.cur.toNat .one with
  | none => raiseError .truncatedBuffer 0xF#4 s.engine.cur 1#2 s
  | some f =>
    { s with
      engine := { s.engine with cur := s.engine.cur + 1#8, phase := .norm }
      out := { s.out with flagsRaw := f.setWidth 8, fv := true } }

/-- The normalised flags are stored (R106, R107): `FLAGN` and `FLAGS_NORM`. -/
def storeFlags (norm : Byte → Flags9) (s : State) : State :=
  { s with
    engine := { s.engine with flagN := norm s.out.flagsRaw, phase := .check }
    out := { s.out with flagsNorm := norm s.out.flagsRaw } }

/-- CHECK_ASSIGNED (R109): UnassignedFlag for the lowest set bit without a slot; else the walk begins with no pending
result at bit 0 (R100). -/
def checkAssigned (s : State) : Result :=
  match s.entry? with
  | none => .fault .noSuchEntry
  | some en =>
    match firstUnassigned en s.engine.flagN with
    | some k => .next (raiseError .unassignedFlag (BitVec.ofNat 4 k) s.engine.cur 0#2 s)
    | none => .next { s with engine := { s.engine with pend := [], bit := 0#4, sub := 0#2, phase := .walk } }

/-- The walk goes on to the next flag bit (R110). -/
def endSlot (s : State) : State :=
  { s with engine := { s.engine with bit := s.engine.bit + 1#4, sub := 0#2, phase := .walk } }

/-- An operation inside a slot either goes on with a state or ends the step with an outcome: `finish` gives the outcome,
with what follows done to a state that goes on. -/
def finish (r : Except Result State) (f : State → State) : Result :=
  match r with
  | .ok t => .next (f t)
  | .error x => x

/-- One sub-value of EXEC_SLOT (R112): `MemRead` at `CUR`, `CUR` advances by the width, the converted value becomes
pending under the key; or TruncatedBuffer at flag bit `BIT`, which ends the DECODE. -/
def readSub (k : Kind) (key : Key) (s : State) : Except Result State :=
  let w := kindWidth k
  match memRead s.snap s.engine.cur.toNat w with
  | none => .error (.next (raiseError .truncatedBuffer s.engine.bit s.engine.cur (BitVec.ofNat 2 w.bytes) s))
  | some raw =>
    .ok { s with
      engine := { s.engine with
        cur := s.engine.cur + BitVec.ofNat 8 w.bytes
        pend := s.engine.pend.put key (convert k raw) } }

/-- After a sub-value, the next descriptor of the slot, or the next flag bit after the third (R112). -/
def nextSub (s : State) : State :=
  if s.engine.sub = 2#2 then endSlot s
  else { s with engine := { s.engine with sub := s.engine.sub + 1#2, phase := .sub } }

/-- A kind row as an instruction: its sub-value, then on to the next descriptor unless it raised an error (R112). -/
def runKind (k : Kind) (key : Key) (s : State) : Result := finish (readSub k key s) nextSub

/-- The sub-values of a slot from descriptor j on: the leading descriptors with `KIND ≠ 0`, in order (R85, R112,
R113). -/
def runSubs (descs : List Half) (j : Nat) (s : State) : Except Result State :=
  match descs with
  | [] => .ok s
  | d :: rest =>
    match decodeDescriptor d with
    | .error x => .error (.refused (.reservedEncoding x))
    | .ok i =>
      match i.sub? with
      | none => .ok s
      | some (k, key) =>
        match readSub k key { s with engine := { s.engine with sub := BitVec.ofNat 2 j } } with
        | .ok t => runSubs rest (j + 1) t
        | .error r => .error r

/-- EXEC_SLOT(e, k) (R112): `BIT <- k` and the slot's sub-values in descriptor order. -/
def runSlot (e k : Nat) (s : State) : Result :=
  match s.config.entries[e]? with
  | none => .fault .noSuchEntry
  | some en =>
    finish (runSubs (en.slot k).descs 0 { s with engine := { s.engine with bit := BitVec.ofNat 4 k } }) endSlot

/-- COMMIT (R115): the pending result becomes the slot file, `CONSUMED <- CUR`, `MV <- 1`, `STATE <- DONE`. -/
def commit (s : State) : State :=
  { s with
    engine := { s.engine with phase := .idle }
    out := { s.out with res := s.engine.pend, consumed := s.engine.cur, mv := true, state := .done } }

/-- One test of the walk (R110, R111): a clear bit is skipped, a set one starts its slot, and after bit 7 the DECODE
commits. -/
def walk (s : State) : State :=
  if 8 ≤ s.engine.bit.toNat then commit s
  else if s.engine.flagN.getLsbD s.engine.bit.toNat then
    { s with
      engine := { s.engine with
        sub := 0#2
        phase := match s.impl with
          | .readwise => .sub
          | .atomic | .slotwise => .slot } }
  else endSlot s

end Sys2Proof.Machine
end

