-- ==== Sys2Proof/Machine/Format.lean ====
section
/-! DEFINITION. The format dispatch rows (42_registry.md R162 to R166): FMT_INDEX and CUR of the row's entry (R104). -/

namespace Sys2Proof.Machine

/-- FMT_P2 (R162): entry 0, no format byte. -/
def execFmtP2 (s : State) : Result := selectEntry 0 s

/-- FMT_P3 (R163): entry 1, no format byte. -/
def execFmtP3 (s : State) : Result := selectEntry 1 s

/-- FMT_0x11 (R164): entry 2, one format byte. -/
def execFmt0x11 (s : State) : Result := selectEntry 2 s

/-- FMT_0x14 (R165): entry 3, one format byte. -/
def execFmt0x14 (s : State) : Result := selectEntry 3 s

/-- FMT_0x15 (R166): entry 4, one format byte. -/
def execFmt0x15 (s : State) : Result := selectEntry 4 s

end Sys2Proof.Machine
end

