-- ==== Sys2Proof/Machine/Kinds.lean ====
section
/-! DEFINITION. The kind rows (41_field_kinds.md R132 to R140) and NONE (30_encoding.md R85). -/

namespace Sys2Proof.Machine

/-- NONE (R85): no sub-value, ends the slot. -/
def execKindNone (s : State) : Result := .next (endSlot s)

/-- U8_RAW (R132). -/
def execU8Raw (key : Key) (s : State) : Result := runKind .u8Raw key s

/-- S16_Q12 (R133). -/
def execS16Q12 (key : Key) (s : State) : Result := runKind .s16Q12 key s

/-- S16_Q8 (R134). -/
def execS16Q8 (key : Key) (s : State) : Result := runKind .s16Q8 key s

/-- U16_Q8 (R135). -/
def execU16Q8 (key : Key) (s : State) : Result := runKind .u16Q8 key s

/-- U16_P4 (R136). -/
def execU16P4 (key : Key) (s : State) : Result := runKind .u16P4 key s

/-- U8_PCT (R137). -/
def execU8Pct (key : Key) (s : State) : Result := runKind .u8Pct key s

/-- U16_RAW (R138). -/
def execU16Raw (key : Key) (s : State) : Result := runKind .u16Raw key s

/-- U16_PCT (R139). -/
def execU16Pct (key : Key) (s : State) : Result := runKind .u16Pct key s

/-- FP16_ENG (R140). -/
def execFp16Eng (key : Key) (s : State) : Result := runKind .fp16Eng key s

end Sys2Proof.Machine
end

