-- ==== Sys2Proof/Machine/Norm.lean ====
section
/-! DEFINITION. The normalisation rows (40_dispatch_and_walk.md R106, R107). -/

namespace Sys2Proof.Machine

/-- NORM_IDENTITY (R106). -/
def execNormIdentity (s : State) : Result := .next (storeFlags normIdentity s)

/-- NORM_INS2 (R107). -/
def execNormIns2 (s : State) : Result := .next (storeFlags insertZeroAt2 s)

end Sys2Proof.Machine
end

