-- ==== Sys2Proof/Machine/Slots.lean ====
section
/-! DEFINITION. The slot rows of formats 0x14 and 0x15 (42_registry.md R167 to R173): EXEC_SLOT (R112) of the row's
entry and flag bit. -/

namespace Sys2Proof.Machine

/-- F14.vBat (R173): entry 3, bit 0. -/
def execF14VBat (s : State) : Result := runSlot 3 0 s

/-- F14.boot (R173): entry 3, bit 2. -/
def execF14Boot (s : State) : Result := runSlot 3 2 s

/-- F15.vBat (R167): entry 4, bit 0. -/
def execF15VBat (s : State) : Result := runSlot 4 0 s

/-- F15.boot (R168): entry 4, bit 2. -/
def execF15Boot (s : State) : Result := runSlot 4 2 s

/-- F15.env (R169): entry 4, bit 3. -/
def execF15Env (s : State) : Result := runSlot 4 3 s

/-- F15.lux (R170): entry 4, bit 4. -/
def execF15Lux (s : State) : Result := runSlot 4 4 s

/-- F15.tWater (R171): entry 4, bit 5. -/
def execF15TWater (s : State) : Result := runSlot 4 5 s

/-- F15.soil (R172): entry 4, bit 6. -/
def execF15Soil (s : State) : Result := runSlot 4 6 s

end Sys2Proof.Machine
end

