-- ==== Sys2Proof/Machine/Dispatch.lean ====
section
/-! DEFINITION. One arm per row of the opcode table. -/

namespace Sys2Proof.Machine

def exec (i : Instr) (s : State) : Host.Outcome State Fault Refusal :=
  match i with
  | .fmtP2 => Sys2Proof.Machine.execFmtP2 s
  | .fmtP3 => Sys2Proof.Machine.execFmtP3 s
  | .fmt0x11 => Sys2Proof.Machine.execFmt0x11 s
  | .fmt0x14 => Sys2Proof.Machine.execFmt0x14 s
  | .fmt0x15 => Sys2Proof.Machine.execFmt0x15 s
  | .normIdentity => Sys2Proof.Machine.execNormIdentity s
  | .normIns2 => Sys2Proof.Machine.execNormIns2 s
  | .kindNone => Sys2Proof.Machine.execKindNone s
  | .u8Raw key => Sys2Proof.Machine.execU8Raw key s
  | .s16Q12 key => Sys2Proof.Machine.execS16Q12 key s
  | .s16Q8 key => Sys2Proof.Machine.execS16Q8 key s
  | .u16Q8 key => Sys2Proof.Machine.execU16Q8 key s
  | .u16P4 key => Sys2Proof.Machine.execU16P4 key s
  | .u8Pct key => Sys2Proof.Machine.execU8Pct key s
  | .u16Raw key => Sys2Proof.Machine.execU16Raw key s
  | .u16Pct key => Sys2Proof.Machine.execU16Pct key s
  | .fp16Eng key => Sys2Proof.Machine.execFp16Eng key s
  | .f14VBat => Sys2Proof.Machine.execF14VBat s
  | .f14Boot => Sys2Proof.Machine.execF14Boot s
  | .f15VBat => Sys2Proof.Machine.execF15VBat s
  | .f15Boot => Sys2Proof.Machine.execF15Boot s
  | .f15Env => Sys2Proof.Machine.execF15Env s
  | .f15Lux => Sys2Proof.Machine.execF15Lux s
  | .f15TWater => Sys2Proof.Machine.execF15TWater s
  | .f15Soil => Sys2Proof.Machine.execF15Soil s

end Sys2Proof.Machine
end

