-- ==== Sys2Proof/Machine/Fetch.lean ====
section
/-! DEFINITION. What the engine performs next: a row of the opcode table, decoded from the registry, the snapshot and
the flags, or an operation of DECODE that has no row; and how a row's word is placed where it is fetched. -/

namespace Sys2Proof.Machine

/-- The operations of DECODE that have no row of their own (R100). `select` and `slot` are the dispatch and the slot
execution of a registry's entries and slots that are no row of the table (R87, log 27). -/
inductive EngineOp where
  | unknownFormat
  | select (e : Nat)
  | fetchFlags
  | checkAssigned
  | walk
  | slot (e k : Nat)
  | noEntry
  | hold
deriving DecidableEq, Repr, Inhabited

/-- What a fetch yields. -/
inductive Fetched where
  | instr (i : Instr)
  | op (o : EngineOp)
  | reserved (e : DecodeError)
deriving DecidableEq, Repr, Inhabited

/-- The FMT_INDEX a format row's entry has (R161). -/
def formatIndex (i : Instr) : Option Nat :=
  match i with
  | .fmtP2 => some 0
  | .fmtP3 => some 1
  | .fmt0x11 => some 2
  | .fmt0x14 => some 3
  | .fmt0x15 => some 4
  | .normIdentity | .normIns2 | .kindNone
  | .u8Raw _ | .s16Q12 _ | .s16Q8 _ | .u16Q8 _ | .u16P4 _ | .u8Pct _ | .u16Raw _ | .u16Pct _ | .fp16Eng _
  | .f14VBat | .f14Boot | .f15VBat | .f15Boot | .f15Env | .f15Lux | .f15TWater | .f15Soil => none

/-- The table and the word an entry's selectors are matched on, for an entry keyed by the port alone or by the byte
alone (R87). -/
def formatWord (en : Entry) : Option (Source × Nat) :=
  match headerByteEn en.header, headerPortEn en.header with
  | false, true => some (.port, (headerPortVal en.header).toNat)
  | true, false => some (.byte, (headerByteVal en.header).toNat)
  | _, _ => none

/-- The format row of entry e, when the entry has the row's selectors at the row's index (R161). -/
def formatRow (e : Nat) (en : Entry) : Option Instr :=
  match formatWord en with
  | none => none
  | some (src, w) =>
    match decode src w with
    | .ok i => if formatIndex i = some e then some i else none
    | .error _ => none

/-- The table of an entry's slot rows (R87): formats 0x14 and 0x15 have slot rows. -/
def slotSource (e : Nat) (en : Entry) : Option Source :=
  match formatRow e en with
  | some .fmt0x14 => some .flags14
  | some .fmt0x15 => some .flags15
  | _ => none

/-- The dispatch: LOOKUP, then the entry's format row (R102, R103). -/
def fetchFormat (s : State) : Fetched :=
  match lookup s.config s.snap with
  | none => .op .unknownFormat
  | some e =>
    match s.config.entries[e]? with
    | none => .op .noEntry
    | some en =>
      match formatRow e en with
      | some i => .instr i
      | none => .op (.select e)

/-- The normalisation row of the selected entry's header (R82, R100). -/
def fetchNorm (s : State) : Fetched :=
  match s.entry? with
  | none => .op .noEntry
  | some en =>
    match decode .header en.header.toNat with
    | .ok i => .instr i
    | .error x => .reserved x

/-- The slot row of flag bit `BIT` in the selected entry (R87, R110). -/
def fetchSlot (s : State) : Fetched :=
  match s.entry? with
  | none => .op .noEntry
  | some en =>
    let generic : Fetched := .op (.slot s.out.fmtIndex.toNat s.engine.bit.toNat)
    match slotSource s.out.fmtIndex.toNat en with
    | none => generic
    | some src =>
      match decode src (2 ^ s.engine.bit.toNat) with
      | .ok i => .instr i
      | .error _ => generic

/-- The kind row of descriptor `SUB` of slot `BIT` (R83, R112). -/
def fetchSub (s : State) : Fetched :=
  match s.entry? with
  | none => .op .noEntry
  | some en =>
    match decode .descriptor ((en.slot s.engine.bit.toNat).desc s.engine.sub.toNat).toNat with
    | .ok i => .instr i
    | .error x => .reserved x

/-- What the engine performs next (R100). -/
def fetch (s : State) : Fetched :=
  match s.engine.phase with
  | .idle => .op .hold
  | .lookup => fetchFormat s
  | .flags => .op .fetchFlags
  | .norm => fetchNorm s
  | .check => .op .checkAssigned
  | .walk => .op .walk
  | .slot => fetchSlot s
  | .sub => fetchSub s

/-! Placing a row's word where it is fetched (log 5). -/

/-- A block in the middle of a DECODE at a phase, with no host access pending, entry e selected and a snapshot of 255
zero bytes for the operands. -/
def stageAt (p : Phase) (e : Byte) (s : State) : State :=
  { s with
    inputs := { s.inputs with start := false }
    snap := { s.snap with mem := [], len := 255#8 }
    engine := { s.engine with cur := 0#8, bit := 0#4, sub := 0#2, pend := [], phase := p }
    out := { Outputs.reset with state := .busy, fmtIndex := e }
    inReset := false
    bus := [] }

/-- The configuration with entry 0 replaced. -/
def withEntry0 (en : Entry) (c : Configuration) : Configuration := { c with entries := en :: c.entries.tail }

/-- A descriptor word as descriptor 0 of slot 0 of entry 0, about to be run. -/
def stageDescriptor (w : Nat) (s : State) : State :=
  let t := stageAt .sub 0#8 s
  { t with config := withEntry0 { Entry.bare 0#32 with slot0 := Slot.one (BitVec.ofNat 16 w) } t.config }

/-- A header word as that of entry 0, about to be normalised by. -/
def stageHeader (w : Nat) (s : State) : State :=
  let t := stageAt .norm 0#8 s
  { t with config := withEntry0 (Entry.bare (BitVec.ofNat 32 w)) t.config }

/-- A port value, about to be looked up in REF. -/
def stagePort (w : Nat) (s : State) : State :=
  let t := stageAt .lookup 0xFF#8 s
  { t with
    config := refConfig .s16Q8
    snap := { t.snap with portValid := true, port := BitVec.ofNat 8 w } }

/-- A format code as byte 0 of the message, about to be looked up in REF. -/
def stageByte (w : Nat) (s : State) : State :=
  let t := stageAt .lookup 0xFF#8 s
  { t with
    config := refConfig .s16Q8
    snap := { t.snap with mem := Memory.write [] 0 (BitVec.ofNat 8 w), portValid := false } }

/-- A flag bit's weight in an entry of REF, its slot about to be run after the format byte and the flag byte. -/
def stageFlag (e : Byte) (w : Nat) (s : State) : State :=
  let t := stageAt .slot e s
  { t with
    config := refConfig .s16Q8
    engine := { t.engine with cur := 2#8, flagN := BitVec.ofNat 9 w, bit := BitVec.ofNat 4 (Nat.log2 w) } }

/-- The word placed where its table is fetched from. -/
def stageIn (src : Source) (w : Nat) (s : State) : State :=
  match src with
  | .port => stagePort w s
  | .byte => stageByte w s
  | .header => stageHeader w s
  | .descriptor => stageDescriptor w s
  | .flags14 => stageFlag 3#8 w s
  | .flags15 => stageFlag 4#8 w s

/-- A table word placed where the next step fetches it: in the table `decodeTableWord` reads it from; a word that is
no instruction is placed as a descriptor. -/
def stageTableWord (nbits w : Nat) (s : State) : State :=
  match decodeTableWord nbits w with
  | some i => stageIn (encode i).1 w s
  | none => stageIn .descriptor w s

end Sys2Proof.Machine
end

