-- ==== Sys2Proof/Machine/Engine.lean ====
section
/-! DEFINITION. The DECODE: as one step (40_dispatch_and_walk.md R100) and as one operation after another (R123); START
(10_state.md R23). -/

namespace Sys2Proof.Machine

/-- An operation of DECODE that has no row. -/
def runOp (o : EngineOp) (s : State) : Result :=
  match o with
  | .unknownFormat => .next (raiseError .unknownFormat 0xF#4 0#8 0#2 s)
  | .select e => selectEntry e s
  | .fetchFlags => .next (fetchFlags s)
  | .checkAssigned => checkAssigned s
  | .walk => .next (walk s)
  | .slot e k => runSlot e k s
  | .noEntry => .fault .noSuchEntry
  | .hold => .next s

/-- What was fetched is performed: a row by its meaning. -/
def runFetched (f : Fetched) (s : State) : Result :=
  match f with
  | .instr i => exec i s
  | .op o => runOp o s
  | .reserved x => .refused (.reservedEncoding x)

/-- The walk over the flag bits of a list, in order (R110): a clear bit is skipped (R111), a set one runs its slot
(R112). -/
def walkBits (bits : List Nat) (s : State) : Result :=
  match bits with
  | [] => .next s
  | k :: rest =>
    let t := { s with engine := { s.engine with bit := BitVec.ofNat 4 k } }
    if t.engine.flagN.getLsbD k then thenRun (runFetched (fetchSlot t) t) (walkBits rest)
    else walkBits rest t

/-- DECODE as one step (R100): REINIT, LOOKUP and dispatch, FETCH_FLAGS, the normalisation, CHECK_ASSIGNED, the walk
over bits 0 to 7, COMMIT; an error ends it where it is raised. -/
def decodeMessage (s : State) : Result :=
  let s := reinit s
  thenRun (runFetched (fetchFormat s) s) fun s =>
  thenRun (.next (fetchFlags s)) fun s =>
  thenRun (runFetched (fetchNorm s) s) fun s =>
  thenRun (checkAssigned s) fun s =>
  thenRun (walkBits [0, 1, 2, 3, 4, 5, 6, 7] s) fun s =>
  .next (commit s)

/-- START is accepted (R23): the latch, then the DECODE, whole in the atomic reference or begun in a multi-cycle
implementation (R123). -/
def acceptStart (s : State) : Result :=
  match s.impl with
  | .atomic => decodeMessage (latch s)
  | .slotwise | .readwise => .next (beginDecode (latch s))

/-- One step of the block: START if the host asserts it (R23, R216), else the DECODE in progress goes on (R123), else the
outputs are held (R199). -/
def engineStep (s : State) : Result :=
  match s.out.state, s.inputs.start with
  | .busy, true => .refused .startWhileBusy
  | .busy, false => runFetched (fetch s) s
  | .idle, true | .done, true | .error, true => acceptStart s
  | .idle, false | .done, false | .error, false => .next s

end Sys2Proof.Machine
end

