-- ==== Sys2Proof/Machine/HostBus.lean ====
section
/-! DEFINITION. The host's accesses: input writes, START, output reads, configuration writes, reset (10_state.md R31,
R46, R47; 60_exceptions.md R194, R200; 70_reset_and_hazards.md R210 to R219). -/

namespace Sys2Proof.Machine

/-- The width in bits of a register read as a word (R38 to R45, R28, R29). -/
def regWidth (r : HostReg) : Nat :=
  match r with
  | .status | .errCode | .errCursor | .fmtIndex | .flagsRaw | .consumed => 8
  | .errBit => 4
  | .errNeed => 2
  | .flagsNorm => 9
  | .resPresent _ => 1
  | .resValue _ => 64
  | .metaOut | .keyName _ => 0

/-- A read that returns data; the block's state is unchanged (R47). -/
def deliver (d : HostData) (s : State) : Result := .next { s with hostData := d }

/-- A read of a word register: its value, or while `STATE = BUSY` a free value of its width (R215). -/
def readWord (r : HostReg) (v : BitVec 64) (s : State) : Result :=
  match s.out.state with
  | .busy =>
    .next { s with
      hostData := .word (BitVec.ofNat 64 ((Config.freeRead s.draws).toNat % 2 ^ regWidth r))
      draws := s.draws + 1 }
  | .idle | .done | .error => deliver (.word v) s

/-- A read of `STATUS`: while `STATE = BUSY` the host polls it (R215), so `STATE` reads BUSY and the reserved bits 0,
and FV and MV are free (log 11). -/
def readStatus (s : State) : Result :=
  match s.out.state with
  | .busy =>
    let v := Config.freeRead s.draws
    .next { s with
      hostData := .word ((statusByte .busy (v.getLsbD 2) (v.getLsbD 3)).setWidth 64)
      draws := s.draws + 1 }
  | .idle | .done | .error => deliver (.word (s.out.statusWord.setWidth 64)) s

/-- A read of `META_OUT` (R46): `META[FMT_INDEX]` when `MV = 1`; a free value when it is not valid (log 13). -/
def readMeta (s : State) : Result :=
  if s.out.mv then
    match s.config.metas[s.out.fmtIndex.toNat]? with
    | some m => deliver (.metadata m) s
    | none => .fault .noSuchEntry
  else .next { s with hostData := .metadata (Config.freeMeta s.draws), draws := s.draws + 1 }

/-- A host read of an output register or of the configuration's names (R31, R46, R47). R25 has names for the key ids 1 to
255 only and R160 forbids no name listed for id 0: that a read of `KEYNAME[0]` then returns it is the model's (DESIGN
CHOICE, log 35). -/
def readReg (r : HostReg) (s : State) : Result :=
  match r with
  | .status => readStatus s
  | .errCode => readWord r (s.out.errCode.code.setWidth 64) s
  | .errBit => readWord r (s.out.errBit.setWidth 64) s
  | .errCursor => readWord r (s.out.errCursor.setWidth 64) s
  | .errNeed => readWord r (s.out.errNeed.setWidth 64) s
  | .fmtIndex => readWord r (s.out.fmtIndex.setWidth 64) s
  | .flagsRaw => readWord r (s.out.flagsRaw.setWidth 64) s
  | .flagsNorm => readWord r (s.out.flagsNorm.setWidth 64) s
  | .consumed => readWord r (s.out.consumed.setWidth 64) s
  | .resPresent k => readWord r ((BitVec.ofBool (s.out.res.present k.toNat)).setWidth 64) s
  | .resValue k =>
    match lookupKey s.out.res k.toNat with
    | some v => readWord r v s
    | none => .fault (.absentSlot k)
  | .metaOut => readMeta s
  | .keyName k =>
    match findName s.config.keyName k.toNat with
    | some name => deliver (.name name) s
    | none => .fault (.noSuchKeyName k)

/-- DOC0's DecodedResult: the present slots under their names (R25). R32 gives the map no order: that the list is in
ascending key id is the model's and means nothing (DESIGN CHOICE, log 33). -/
def decodedResult (s : State) : List (Option String × F64) :=
  s.out.res.map fun p => (findName s.config.keyName p.1, p.2)

/-- Reset with a configuration that passes R160 (R210): the configuration is taken, every output and internal register
gets its reset value, the block is IDLE; the inputs are not touched (R212). -/
def resetWith (c : Configuration) (s : State) : State :=
  { s with
    config := c
    snap := Snapshot.reset
    engine := Engine.reset
    out := Outputs.reset
    inReset := false }

/-- The reset sequence (R210) as one step: load, check, and leave reset. A configuration that fails a check is refused
(R200): the model has no step from the block it would hold in reset (log 15). -/
def doReset (c : Configuration) (s : State) : Result :=
  if c.wellFormed then .next (resetWith c s) else .refused .registryRefused

/-- One access of the host. Inputs can be written at any time (R47, R212). START is the block's own step with the command
asserted, so that no access falls between START and its latch, nor, in the atomic reference, before the DECODE's
completion (R23, R66, R215). -/
def access (r : HostReq) (s : State) : Result :=
  match r with
  | .idle => engineStep s
  | .writeMsg i b =>
    if i.toNat < Config.msgMax then
      .next { s with inputs := { s.inputs with msgBuf := s.inputs.msgBuf.write i.toNat b } }
    else .fault .noSuchByte
  | .writeLen n => .next { s with inputs := { s.inputs with msgLen := n } }
  | .writePortValid v => .next { s with inputs := { s.inputs with portValid := v } }
  | .writePort p => .next { s with inputs := { s.inputs with port := p } }
  | .start => engineStep { s with inputs := { s.inputs with start := true } }
  | .read reg => readReg reg s
  | .writeConfig _ => .refused .configWrite
  | .reset c => doReset c s

/-- START is what the next step is to act on: asserted already, or the host's next access. -/
def State.startNext (s : State) : Bool :=
  s.inputs.start ||
    match s.bus with
    | .start :: _ => true
    | _ => false

/-- What a step performs: nothing while the block is held in reset (R210, R212); START where it is asserted, before any
access (R66); else the host's next access, or the block's own step where none is pending. -/
def hostStep (s : State) : Result :=
  if s.inReset then .refused (if s.startNext then .startInReset else .heldInReset)
  else if s.inputs.start then engineStep s
  else
    match s.bus with
    | [] => engineStep s
    | r :: rest => access r { s with bus := rest }

end Sys2Proof.Machine
end

