-- ==== Sys2Proof/Machine/Step.lean ====
section
/-! DEFINITION. One step of the machine, and placing a word where it is fetched. -/

namespace Sys2Proof.Machine

/-- One step. -/
def step (s : State) : Host.Outcome State Fault Refusal := hostStep s

/-- The state with a table word placed where the next step fetches and runs it (log 5). -/
def State.withFetchWord (s : State) (nbits w : Nat) : State := stageTableWord nbits w s

end Sys2Proof.Machine
end

