-- ==== Sys2Proof/Machine/Notation.lean ====
section
/-! DEFINITION. The message notations as data: byte lists, the annotated message and its assembly, disassembly
(30_encoding.md R94 to R98). -/

namespace Sys2Proof.Machine

/-- One sub-value of an annotated message: `<key>:<KIND> = <raw>` (R95). -/
structure SubLine where
  key : Key
  kind : Kind
  raw : Half
deriving DecidableEq, Repr, Inhabited

/-- A line `b<k>` of an annotated message (R95). -/
structure BitLine where
  bit : Nat
  subs : List SubLine
deriving DecidableEq, Repr, Inhabited

/-- An annotated message: its name, its port if one is written, the format byte if the entry is byte-keyed, the flag byte
as sent, the lines as written (R95). -/
structure AnnotatedMessage where
  name : String
  port : Option Byte
  fmt : Option Byte
  flags : Byte
  lines : List BitLine
deriving DecidableEq, Repr, Inhabited

/-- What `raise` records of an error (R184). -/
structure ErrorRecord where
  code : ErrCode
  bit : BitVec 4
  cursor : Byte
  need : BitVec 2
deriving DecidableEq, Repr, Inhabited

/-- A raw value in its kind's width, big-endian (R95). A raw value above 255 in a one-byte kind is not well formed and R95
gives it no bytes: its low byte is written (DESIGN CHOICE, log 31). -/
def assembleSub (sl : SubLine) : List Byte :=
  match kindWidth sl.kind with
  | .one => [sl.raw.extractLsb' 0 8]
  | .two => [sl.raw.extractLsb' 8 8, sl.raw.extractLsb' 0 8]

/-- The lines in ascending k, however they are written (R95). Two lines of one k, which no well-formed message has, stay in
the order written (DESIGN CHOICE, log 31). -/
def ascendingLines (lines : List BitLine) : List BitLine := lines.insertionSort fun a b => a.bit ≤ b.bit

/-- The field bytes: for each line in ascending k each raw value (R95). -/
def assembleLines (lines : List BitLine) : List Byte :=
  (ascendingLines lines).flatMap fun l => l.subs.flatMap assembleSub

/-- Assembly (R95, R97): the format byte if one is written, the flag byte, the field bytes. The port goes beside them
(R94). -/
def assemble (m : AnnotatedMessage) : List Byte := m.fmt.toList ++ [m.flags] ++ assembleLines m.lines

/-- A byte list as memory, from address `a` on (R94). -/
def memoryFrom (a : Nat) (bytes : List Byte) : Memory :=
  match bytes with
  | [] => []
  | b :: rest => if b = Memory.unlisted then memoryFrom (a + 1) rest else (a, b) :: memoryFrom (a + 1) rest

/-- The snapshot of a message written as a byte list, with or without a port (R94); none for a message longer than
`MSG_MAX` bytes, which cannot be presented (R8, R21). Without a port `PV` is 0 and `P`, which the spec then leaves any
value, is 0 (DESIGN CHOICE, log 32). -/
def snapshotOf (bytes : List Byte) (port : Option Byte) : Option Snapshot :=
  if bytes.length ≤ Config.msgMax then
    some
      { mem := memoryFrom 0 bytes
        len := BitVec.ofNat 8 bytes.length
        portValid := port.isSome
        port := port.getD 0#8 }
  else none

/-- The transport presents a message and the host asserts START (R94, R213): bytes of `MSG_BUF` beyond the message and,
without a port, `PORT` stay as they are. A message longer than `MSG_MAX` bytes is refused (R8, R21). -/
def presentMessage (bytes : List Byte) (port : Option Byte) (s : State) : Result :=
  if bytes.length ≤ Config.msgMax then
    .next { s with
      inputs :=
        { msgBuf := Memory.latch (memoryFrom 0 bytes) s.inputs.msgBuf bytes.length
          msgLen := BitVec.ofNat 8 bytes.length
          portValid := port.isSome
          port := port.getD s.inputs.port
          start := true } }
  else .refused .messageTooLong

/-- The sub-values of a slot read without conversion, and the cursor after them (R98). A reserved descriptor ends its
slot here as NONE does: no loaded registry holds one and R88 defines nothing for it (DESIGN CHOICE, log 17). -/
def disassembleSubs (sn : Snapshot) (bit : Nat) (descs : List Half) (cur : Nat) :
    Except ErrorRecord (List SubLine × Nat) :=
  match descs with
  | [] => .ok ([], cur)
  | d :: rest =>
    match (decodeDescriptor d).toOption.bind Instr.sub? with
    | none => .ok ([], cur)
    | some (k, key) =>
      match memRead sn cur (kindWidth k) with
      | none => .error ⟨.truncatedBuffer, BitVec.ofNat 4 bit, BitVec.ofNat 8 cur, BitVec.ofNat 2 (kindWidth k).bytes⟩
      | some raw =>
        match disassembleSubs sn bit rest (cur + (kindWidth k).bytes) with
        | .error x => .error x
        | .ok (subs, last) => .ok (⟨key, k, raw⟩ :: subs, last)

/-- One line per set flag bit of a list of bits, in order (R98). -/
def disassembleBits (sn : Snapshot) (en : Entry) (flagN : Flags9) (bits : List Nat) (cur : Nat) :
    Except ErrorRecord (List BitLine) :=
  match bits with
  | [] => .ok []
  | k :: rest =>
    if flagN.getLsbD k then
      match disassembleSubs sn k (en.slot k).descs cur with
      | .error x => .error x
      | .ok (subs, last) =>
        match disassembleBits sn en flagN rest last with
        | .error x => .error x
        | .ok lines => .ok (⟨k, subs⟩ :: lines)
    else disassembleBits sn en flagN rest cur

/-- The normalised flags of an entry for a flag byte (R82). The reserved codes `10` and `11` normalise as IDENTITY here:
no loaded registry holds one and R89 defines nothing for them (DESIGN CHOICE, log 30). -/
def normalise (en : Entry) (f : Byte) : Flags9 :=
  if headerNorm en.header = 1#2 then insertZeroAt2 f else normIdentity f

/-- Disassembly of a message under a registry (R98): the annotated message, or the error its DECODE fails with. The bytes,
the port and the registry hold no name, so the one to write is an argument. -/
def disassemble (name : String) (c : Configuration) (sn : Snapshot) : Except ErrorRecord AnnotatedMessage :=
  match (lookup c sn).bind fun e => c.entries[e]? with
  | none => .error ⟨.unknownFormat, 0xF#4, 0#8, 0#2⟩
  | some en =>
    let byteKeyed := headerByteEn en.header
    let flagAt := if byteKeyed then 1 else 0
    match memRead sn flagAt .one with
    | none => .error ⟨.truncatedBuffer, 0xF#4, BitVec.ofNat 8 flagAt, 1#2⟩
    | some f =>
      let flags : Byte := f.setWidth 8
      let flagN := normalise en flags
      match firstUnassigned en flagN with
      | some k => .error ⟨.unassignedFlag, BitVec.ofNat 4 k, BitVec.ofNat 8 (flagAt + 1), 0#2⟩
      | none =>
        match disassembleBits sn en flagN [0, 1, 2, 3, 4, 5, 6, 7] (flagAt + 1) with
        | .error x => .error x
        | .ok lines =>
          .ok
            { name := name
              port := if sn.portValid then some sn.port else none
              fmt := if byteKeyed then some (sn.mem.read 0) else none
              flags := flags
              lines := lines }

end Sys2Proof.Machine
end

