-- ==== Sys2Proof/Safety.lean ====
section
/-! DEFINITION. The terms claims are stated in: the value of a binary64 word and rounding to nearest (00_scope.md R12),
the invariant of the machine's states, agreement of snapshots, what a DECODE's message holds. -/

namespace Sys2Proof.Machine

/-- A binary64 word that is neither an infinity nor a NaN. -/
def F64Finite (b : F64) : Prop := (b.toNat / 2 ^ 52) % 2 ^ 11 ≠ 0x7FF

/-- The value of a finite binary64 word. -/
def f64Value (b : F64) : ℚ :=
  (if b.getLsbD 63 then -1 else 1) * ((f64Significand b : ℚ) * (2 : ℚ) ^ f64Exponent b)

/-- `b` is `rne(q)` (R12): a finite binary64 value nearest to q; where another is as near, the significand of `b` is
even; zero is +0.0 (R144). -/
def IsRne (q : ℚ) (b : F64) : Prop :=
  F64Finite b ∧
  (∀ c : F64, F64Finite c → |f64Value b - q| ≤ |f64Value c - q|) ∧
  (∀ c : F64, F64Finite c → f64Value c ≠ f64Value b → |f64Value c - q| = |f64Value b - q| →
    f64Significand b % 2 = 0) ∧
  (f64Value b = 0 → b = 0#64)

/-- `b` is `f64(q)` (R12): the binary64 value equal to q; zero is +0.0 (R144). -/
def IsF64 (q : ℚ) (b : F64) : Prop := F64Finite b ∧ f64Value b = q ∧ (q = 0 → b = 0#64)

/-- The one-byte raw value at an address of a snapshot as an integer (R77). -/
def rawByte (sn : Snapshot) (a : Nat) : Nat := (sn.mem.read a).toNat

/-- The two-byte raw value at an address of a snapshot as an integer: `M[a] * 256 + M[a+1]` (R78). -/
def rawPair (sn : Snapshot) (a : Nat) : Nat := (sn.mem.read a).toNat * 256 + (sn.mem.read (a + 1)).toNat

/-- `s16(v) = v - 65536 if v[15] = 1 else v` (R11) of an integer below 65536. -/
def signed16 (v : Nat) : Int := if 32768 ≤ v then (v : Int) - 65536 else v

/-- The state after a sub-value of n bytes whose converted value is v: `CUR` advanced, the value pending under its key,
the next descriptor or flag bit next (R112). -/
def afterSub (n : Nat) (key : Key) (v : F64) (s : State) : State :=
  nextSub { s with
    engine := { s.engine with
      cur := s.engine.cur + BitVec.ofNat 8 n
      pend := s.engine.pend.put key v } }

/-- The state after a slot row that reads n bytes at flag bit k and leaves the pending result p: the walk is at the next
bit (R110, R112). -/
def slotDone (n k : Nat) (p : ResultFile) (s : State) : State :=
  { s with
    engine := { s.engine with
      cur := s.engine.cur + BitVec.ofNat 8 n, bit := BitVec.ofNat 4 (k + 1), sub := 0#2, pend := p, phase := .walk } }

/-- A DECODE in progress at a phase, with no host access pending and START not asserted. -/
def Running (p : Phase) (s : State) : Prop :=
  s.bus = [] ∧ s.inReset = false ∧ s.inputs.start = false ∧ s.out.state = .busy ∧ s.engine.phase = p

/-- START is asserted and can be accepted (R23, R212, R216). -/
def StartAccepted (s : State) : Prop := s.inReset = false ∧ s.inputs.start = true ∧ s.out.state ≠ .busy

/-- A host access is the next thing performed. -/
def Accessing (r : HostReq) (rest : List HostReq) (s : State) : Prop :=
  s.bus = r :: rest ∧ s.inReset = false ∧ s.inputs.start = false

/-- An entry's selectors match a snapshot (R102): `port_ok` and `byte_ok`. -/
def SelectorsMatch (sn : Snapshot) (en : Entry) : Prop :=
  (headerPortEn en.header = false ∨ (sn.portValid = true ∧ sn.port = headerPortVal en.header)) ∧
  (headerByteEn en.header = false ∨ (1 ≤ sn.len.toNat ∧ sn.mem.read 0 = headerByteVal en.header))

/-- The checks W1 to W10 of R160, on the words as numbers. -/
def RegistryOk (c : Configuration) : Prop :=
  c.entries.length ≤ 16 ∧
  (∀ en ∈ c.entries, en.header.toNat / 2 ^ 12 % 16 = 0 ∧ en.header.toNat / 2 ^ 24 = 0 ∧
    en.header.toNat / 2 ^ 10 % 4 ≤ 1) ∧
  (∀ en ∈ c.entries, en.header.toNat / 2 ^ 8 % 2 = 1 ∨ en.header.toNat / 2 ^ 9 % 2 = 1) ∧
  (∀ en ∈ c.entries, (en.header.toNat / 2 ^ 8 % 2 = 0 → en.header.toNat % 2 ^ 8 = 0) ∧
    (en.header.toNat / 2 ^ 9 % 2 = 0 → en.header.toNat / 2 ^ 16 % 2 ^ 8 = 0)) ∧
  c.entries.Pairwise (fun a b => ¬(a.header.toNat % 2 ^ 10 = b.header.toNat % 2 ^ 10 ∧
    a.header.toNat / 2 ^ 16 % 2 ^ 8 = b.header.toNat / 2 ^ 16 % 2 ^ 8)) ∧
  (∀ en ∈ c.entries, ∀ d ∈ en.descs, d.toNat / 2 ^ 12 = 0 ∧ d.toNat % 16 ≤ 9 ∧
    (d.toNat / 16 % 2 ^ 8 = 0 ↔ d.toNat % 16 = 0)) ∧
  (∀ en ∈ c.entries, ∀ sl ∈ en.slots, (sl.d0.toNat % 16 = 0 → sl.d1.toNat % 16 = 0 ∧ sl.d2.toNat % 16 = 0) ∧
    (sl.d1.toNat % 16 = 0 → sl.d2.toNat % 16 = 0)) ∧
  (∀ en ∈ c.entries, (en.descs.filter fun d => d.toNat % 16 ≠ 0).Pairwise
    fun a b => a.toNat / 16 % 2 ^ 8 ≠ b.toNat / 16 % 2 ^ 8) ∧
  (∀ en ∈ c.entries, ∀ d ∈ en.descs, d.toNat % 16 ≠ 0 → d.toNat / 16 % 2 ^ 8 ∈ c.keyName.map Prod.fst) ∧
  c.entries.length ≤ c.metas.length

/-- The run of n steps, stopping at the first fault or refusal. -/
def runSteps (n : Nat) (s : State) : Result :=
  match n with
  | 0 => .next s
  | k + 1 =>
    match step s with
    | .next t => runSteps k t
    | .fault x => .fault x
    | .refused x => .refused x

/-- The invariant of the states a run reaches. -/
structure State.Inv (s : State) : Prop where
  msgBuf_wf : s.inputs.msgBuf.wf
  mem_wf : s.snap.mem.wf
  /-- the loaded registry passed R160. -/
  config_ok : s.config.wellFormed = true
  pend_wf : s.engine.pend.wf
  res_wf : s.out.res.wf
  /-- BUSY exactly while a DECODE is in progress (R39). -/
  busy_iff : s.out.state = .busy ↔ s.engine.phase ≠ .idle
  /-- `MV` is 1 exactly when DONE (R38). -/
  mv_iff : s.out.mv = true ↔ s.out.state = .done
  /-- `ERRCODE` is set exactly when ERROR (R39, R40). -/
  err_iff : s.out.errCode ≠ .none ↔ s.out.state = .error
  /-- the error record outside ERROR (R41 to R43). -/
  err_clear : s.out.state ≠ .error → s.out.errBit = 0xF#4 ∧ s.out.errCursor = 0#8 ∧ s.out.errNeed = 0#2
  /-- no result outside DONE (R45, R116). -/
  no_partial : s.out.state ≠ .done → s.out.res = [] ∧ s.out.consumed = 0#8
  /-- `FLAGS_RAW` and `FLAGS_NORM` are 0 until the flag byte was read (R49). -/
  flags_clear : s.out.fv = false → s.out.flagsRaw = 0#8 ∧ s.out.flagsNorm = 0#9
  /-- FV, and the entry selected, after DONE (R185, R46). -/
  done_entry : s.out.state = .done → s.out.fv = true ∧ s.out.fmtIndex.toNat < s.config.entries.length
  /-- what a DECODE read lies within the message (R34, R45). -/
  done_consumed : s.out.state = .done → s.out.consumed.toNat ≤ s.snap.len.toNat
  /-- after the dispatch an entry is selected (R44). -/
  entry_selected : s.engine.phase ≠ .idle → s.engine.phase ≠ .lookup → s.out.fmtIndex.toNat < s.config.entries.length
  /-- before the flag fetch FV is 0, after it 1 (R35). -/
  fv_before : s.engine.phase = .lookup ∨ s.engine.phase = .flags → s.out.fv = false
  fv_after : s.engine.phase = .norm ∨ s.engine.phase = .check ∨ s.engine.phase = .walk ∨ s.engine.phase = .slot ∨
    s.engine.phase = .sub → s.out.fv = true
  /-- the cursor stays within the message once the flag byte was read (R34). -/
  cur_bound : s.engine.phase = .norm ∨ s.engine.phase = .check ∨ s.engine.phase = .walk ∨ s.engine.phase = .slot ∨
    s.engine.phase = .sub → s.engine.cur.toNat ≤ s.snap.len.toNat
  /-- `BIT` is 0 to 8 at the walk's tests and 0 to 7 inside a slot (R37, R110). -/
  bit_walk : s.engine.phase = .walk → s.engine.bit.toNat ≤ 8
  bit_slot : s.engine.phase = .slot ∨ s.engine.phase = .sub → s.engine.bit.toNat < 8
  /-- `SUB` is 0 to 2 (R37). -/
  sub_bound : s.engine.phase = .sub → s.engine.sub.toNat ≤ 2

/-- The inputs present the same message: length, bytes below it, port validity, and the port where it is valid. -/
def Inputs.SameMessage (a b : Inputs) : Prop :=
  a.msgLen = b.msgLen ∧ a.portValid = b.portValid ∧ (a.portValid = true → a.port = b.port) ∧
  ∀ i, i < a.msgLen.toNat → a.msgBuf.read i = b.msgBuf.read i

/-- The outputs an outcome ends with, or its stop reason, are those of another. -/
def SameOutputs (a b : Result) : Prop :=
  match a, b with
  | .next s, .next t => s.out = t.out
  | .fault x, .fault y => x = y
  | .refused x, .refused y => x = y
  | _, _ => False

/-- The sub-values a normalised flag word gates in an entry: the leading descriptors with a kind of each slot whose bit
is set, in order (R75). -/
def gatedDescs (en : Entry) (flagN : Flags9) : List Half :=
  ([0, 1, 2, 3, 4, 5, 6, 7].filter fun k => flagN.getLsbD k).flatMap fun k => (en.slot k).subDescs

/-- The sub-values gated by the flag bits below k. -/
def gatedBelow (en : Entry) (flagN : Flags9) (k : Nat) : List Half :=
  ((List.range k).filter fun j => flagN.getLsbD j).flatMap fun j => (en.slot j).subDescs

/-- `WIDTH(d.KIND)` of a descriptor by its KIND code (R86): 1 for U8_RAW and U8_PCT, 2 for the other kinds. R86 leaves
the width of NONE and of a reserved code undefined; that it is 2 here is the model's (DESIGN CHOICE, log 29), and a
statement over a checked registry asks it of real kinds only. -/
def descWidth (d : Half) : Nat :=
  if descKind d = 0x1#4 ∨ descKind d = 0x6#4 then 1 else 2

/-- `consumed` of R76 for an entry and its normalised flags. -/
def messageLength (en : Entry) (flagN : Flags9) : Nat :=
  (if headerByteEn en.header then 1 else 0) + 1 + ((gatedDescs en flagN).map descWidth).sum

/-- An annotated message is well formed for an entry (R95): a format byte exactly if the entry is byte-keyed; exactly one
line, in whatever order the lines are written, for each set bit of the normalised flags, bit 8 among them; in each line at
least one sub-value, and the slot's keys and kinds in order (so a set bit without an assigned slot has no line it could
have, and the message is not well formed); every raw value within its kind's width. -/
def AnnotatedMessage.WellFormedFor (m : AnnotatedMessage) (en : Entry) : Prop :=
  m.fmt.isSome = headerByteEn en.header ∧
  (m.lines.map BitLine.bit).Perm ((List.range 9).filter fun k => (normalise en m.flags).getLsbD k) ∧
  (∀ l ∈ m.lines, l.subs ≠ [] ∧ l.subs.map (fun sl => encodeDescriptor sl.kind.code sl.key) = (en.slot l.bit).subDescs) ∧
  ∀ l ∈ m.lines, ∀ sl ∈ l.subs, kindWidth sl.kind = .one → sl.raw.toNat < 256

end Sys2Proof.Machine
end

