-- ==== Sys2Proof/Certificates/Slice0/Obligations.lean ====
section
/-! DEFINITION. The statements for the provers, from the numbered rules of spec/. -/

open Sys2Proof Sys2Proof.Machine

/-! Encoding. -/

/-- R81 to R84, R162 to R173: decoding the word of a well-formed instruction in its table gives it back. -/
def Obligations.DecodeEncodeRoundTrip : Prop :=
  ∀ i : Instr, i.WellFormed = true → decode (encode i).1 (encode i).2 = .ok i

/-- R83, R84: no bit of an accepted descriptor word is dropped. -/
def Obligations.DescriptorDecodingLosesNoBit : Prop :=
  ∀ (d : Half) (i : Instr), decodeDescriptor d = .ok i → encode i = (.descriptor, d.toNat)

/-- R83, R84, R88: the decoder accepts a descriptor word exactly when bits 15:12 are zero, KIND is at most 9, and NONE has
no key. A real kind with key 0, which R92 and W6 keep out of a registry, is accepted here and ill formed as an
instruction: the model's choice (log 16). -/
def Obligations.DescriptorAcceptedExactlyWhenLegal : Prop :=
  ∀ d : Half, (∃ i, decode .descriptor d.toNat = .ok i) ↔
    (d.toNat / 2 ^ 12 = 0 ∧ d.toNat % 16 ≤ 9 ∧ (d.toNat % 16 = 0 → d.toNat / 16 % 2 ^ 8 = 0))

/-- R160, R200, R210, R212: a reset loads a configuration that passes W1 to W10, with every output at its reset value and
the inputs untouched; with any other configuration it is refused (log 15). -/
def Obligations.RegistryLoadedExactlyWhenChecked : Prop :=
  ∀ (s : State) (c : Configuration) (rest : List HostReq), Accessing (.reset c) rest s →
    (RegistryOk c → ∃ t, step s = .next t ∧ t.config = c ∧ t.inReset = false ∧ t.out = Outputs.reset ∧
      t.inputs = s.inputs ∧ t.bus = rest) ∧
    (¬ RegistryOk c → step s = .refused .registryRefused)

/-- R81 to R84, R162 to R173: words of each table written out from the spec. -/
def Obligations.SampleWordsDecode : Prop :=
  decode .port 0x02 = .ok .fmtP2 ∧ decode .byte 0x15 = .ok .fmt0x15 ∧
  decode .header 0x00000512 = .ok .normIns2 ∧ decode .header 0x00020200 = .ok .normIdentity ∧
  decode .descriptor 0x0012 = .ok (.s16Q12 1#8) ∧ decode .descriptor 0x0056 = .ok (.u8Pct 5#8) ∧
  decode .descriptor 0x00A9 = .ok (.fp16Eng 0xA#8) ∧ decode .descriptor 0x0000 = .ok .kindNone ∧
  decode .descriptor 0x000A = .error .reservedKind ∧ decode .flags15 0x040 = .ok .f15Soil ∧
  decode .flags14 0x008 = .error .unassignedFlag

/-! Reset, steps, the host. -/

/-- R48, R161: the stated reset values; the configuration is REF. -/
def Obligations.ResetLeavesStatedValues : Prop :=
  State.reset.out.statusWord = 0x00#8 ∧ State.reset.out.errCode.code = 0x00#8 ∧ State.reset.out.errBit = 0xF#4 ∧
  State.reset.out.errCursor = 0x00#8 ∧ State.reset.out.errNeed = 0#2 ∧ State.reset.out.fmtIndex = 0xFF#8 ∧
  State.reset.out.flagsRaw = 0x00#8 ∧ State.reset.out.flagsNorm = 0x000#9 ∧ State.reset.out.consumed = 0x00#8 ∧
  (∀ k, State.reset.out.res.present k = false) ∧ State.reset.config.entries = refEntries .s16Q8 ∧
  State.reset.impl = .atomic ∧ State.reset.config.wellFormed = true

/-- R48, R160: the machine right after reset meets the invariant (the values of log 8 and log 9 are the model's). -/
def Obligations.ResetMeetsInvariant : Prop := State.reset.Inv

/-- R34, R37 to R45, R116, R160: every step keeps the invariant. -/
def Obligations.StepKeepsInvariant : Prop := ∀ s t : State, s.Inv → step s = .next t → t.Inv

/-- R100, R123: the step of a DECODE in progress is `exec` of the instruction fetched: where the selected entry has a
format row's selectors at the row's own index (log 27); where its header decodes to a normalisation row; where it is
that of format 0x14 or 0x15 and the flag bit is a slot row's (log 27); where the descriptor decodes to a kind row. The
places are those of the model's schedules (logs 1, 2). -/
def Obligations.StepRunsDecodedInstruction : Prop :=
  ∀ (s : State) (i : Instr),
    (∀ e en, Running .lookup s → lookup s.config s.snap = some e → s.config.entries[e]? = some en →
      formatRow e en = some i → step s = exec i s) ∧
    (∀ en, Running .norm s → s.entry? = some en → decode .header en.header.toNat = .ok i → step s = exec i s) ∧
    (∀ en src, Running .slot s → s.entry? = some en → slotSource s.out.fmtIndex.toNat en = some src →
      decode src (2 ^ s.engine.bit.toNat) = .ok i → step s = exec i s) ∧
    (∀ en, Running .sub s → s.entry? = some en →
      decode .descriptor ((en.slot s.engine.bit.toNat).desc s.engine.sub.toNat).toNat = .ok i → step s = exec i s)

/-- R23: an accepted START latches the message and uses up the command; in the atomic reference the step is the DECODE on
the snapshot. That it is acted on before any pending access, whatever accesses there are, is the model's (DESIGN CHOICE,
log 4). -/
def Obligations.StartLatchesTheMessage : Prop :=
  ∀ s : State, s.Inv → StartAccepted s →
    (s.impl = .atomic → step s = decodeMessage (latch s)) ∧
    ∃ t, step s = .next t ∧ t.snap.len = s.inputs.msgLen ∧ t.snap.portValid = s.inputs.portValid ∧
      t.snap.port = s.inputs.port ∧ t.inputs = { s.inputs with start := false } ∧ t.bus = s.bus ∧
      ∀ i, i < s.inputs.msgLen.toNat → t.snap.mem.read i = s.inputs.msgBuf.read i

/-- R200, R216: a START while BUSY is refused, asserted already or as the host's next access. -/
def Obligations.StartWhileBusyIsRefused : Prop :=
  ∀ s : State, s.inReset = false → s.out.state = .busy →
    (s.inputs.start = true ∨ ∃ rest, s.bus = .start :: rest) → step s = .refused .startWhileBusy

/-- R210, R212: a block held in reset has no step and accepts no START. -/
def Obligations.NoStepWhileHeldInReset : Prop :=
  (∀ s : State, s.inReset = true → (s.inputs.start = true ∨ ∃ rest, s.bus = .start :: rest) →
    step s = .refused .startInReset) ∧
  (∀ s : State, s.inReset = true → s.inputs.start = false → (∀ rest, s.bus ≠ .start :: rest) →
    step s = .refused .heldInReset)

/-- R199: between DECODEs the block holds its state until the next START or reset. -/
def Obligations.OutputsHeldBetweenDecodes : Prop :=
  ∀ s : State, s.bus = [] → s.inReset = false → s.out.state ≠ .busy → s.inputs.start = false → step s = .next s

/-- R31: a host read of `RES_VALUE[k]` with `RES_PRESENT[k] = 0` faults. That it faults while BUSY too, where R215 gives
every output read an unspecified value, is the model's (DEDUCED, log 12). -/
def Obligations.AbsentSlotReadFaults : Prop :=
  ∀ (s : State) (k : Byte) (rest : List HostReq), Accessing (.read (.resValue k)) rest s →
    s.out.res.present k.toNat = false → step s = .fault (.absentSlot k)

/-- R46, R47: outside BUSY a host read returns the register and changes nothing of the block. R25 has key names for the ids
1 to 255; that a name listed for id 0 is returned too is the model's (DESIGN CHOICE, log 35). -/
def Obligations.OutputReadsReturnTheRegisters : Prop :=
  ∀ (s : State) (r : HostReg) (rest : List HostReq), Accessing (.read r) rest s → s.out.state ≠ .busy →
    (∀ v : BitVec 64,
      (r = .status ∧ v = s.out.statusWord.setWidth 64 ∨ r = .errCode ∧ v = s.out.errCode.code.setWidth 64 ∨
        r = .errBit ∧ v = s.out.errBit.setWidth 64 ∨ r = .errCursor ∧ v = s.out.errCursor.setWidth 64 ∨
        r = .errNeed ∧ v = s.out.errNeed.setWidth 64 ∨ r = .fmtIndex ∧ v = s.out.fmtIndex.setWidth 64 ∨
        r = .flagsRaw ∧ v = s.out.flagsRaw.setWidth 64 ∨ r = .flagsNorm ∧ v = s.out.flagsNorm.setWidth 64 ∨
        r = .consumed ∧ v = s.out.consumed.setWidth 64 ∨
        (∃ k, r = .resPresent k ∧ v = if (lookupKey s.out.res k.toNat).isSome then 1#64 else 0#64) ∨
        (∃ k, r = .resValue k ∧ lookupKey s.out.res k.toNat = some v)) →
      step s = .next { s with bus := rest, hostData := .word v }) ∧
    (∀ m, r = .metaOut → s.out.mv = true → s.config.metas[s.out.fmtIndex.toNat]? = some m →
      step s = .next { s with bus := rest, hostData := .metadata m }) ∧
    (∀ k name, r = .keyName k → findName s.config.keyName k.toNat = some name →
      step s = .next { s with bus := rest, hostData := .name name })

/-- R215: a read of a word register while BUSY returns the next draw of the free value, cut to the register's width, of
which nothing more is known (`Config.freeRead` has no body); a read of STATUS shows BUSY, its FV and MV drawn (log 11);
nothing but the read data and the draw counter changes. -/
def Obligations.BusyReadsReturnTheNextDraw : Prop :=
  ∀ (s : State) (r : HostReg) (rest : List HostReq), Accessing (.read r) rest s → s.out.state = .busy →
    (∀ w : Nat,
      ((r, w) ∈ [(HostReg.errCode, 8), (.errBit, 4), (.errCursor, 8), (.errNeed, 2), (.fmtIndex, 8), (.flagsRaw, 8),
          (.flagsNorm, 9), (.consumed, 8)] ∨ (∃ k, r = .resPresent k) ∧ w = 1) →
      step s = .next { s with
        bus := rest, hostData := .word (BitVec.ofNat 64 ((Config.freeRead s.draws).toNat % 2 ^ w))
        draws := s.draws + 1 }) ∧
    (r = .status → ∃ v : BitVec 64,
      v.toNat = 1 + (if (Config.freeRead s.draws).getLsbD 2 then 4 else 0) +
        (if (Config.freeRead s.draws).getLsbD 3 then 8 else 0) ∧
      step s = .next { s with bus := rest, hostData := .word v, draws := s.draws + 1 })

/-- R26, R194: a configuration write is refused, and no step but a reset changes the configuration. -/
def Obligations.ConfigurationChangesOnlyAtReset : Prop :=
  (∀ (s : State) (c : Configuration) (rest : List HostReq), Accessing (.writeConfig c) rest s →
    step s = .refused .configWrite) ∧
  (∀ s t : State, step s = .next t → (∀ c rest, s.bus ≠ .reset c :: rest) → t.config = s.config)

/-- R66, R217: a write of the inputs leaves the DECODE in progress and the outputs alone, and a step of a DECODE in
progress neither reads nor changes the inputs. -/
def Obligations.InputWritesLeaveTheDecodeAlone : Prop :=
  (∀ (s t : State) (r : HostReq) (rest : List HostReq), Accessing r rest s →
    (∃ i b, r = .writeMsg i b) ∨ (∃ n, r = .writeLen n) ∨ (∃ v, r = .writePortValid v) ∨ (∃ p, r = .writePort p) →
    step s = .next t → t.snap = s.snap ∧ t.engine = s.engine ∧ t.out = s.out ∧ t.config = s.config ∧ t.bus = rest) ∧
  (∀ (s t : State) (p : Phase) (j : Inputs), Running p s → j.start = false → step s = .next t →
    t.inputs = s.inputs ∧ step { s with inputs := j } = .next { t with inputs := j })

/-- R47, R213: a host write of the inputs takes effect and changes nothing else: `MSG_BUF[i]` for i up to 254 and no other
byte, `MSG_LEN`, `PORT_VALID`, `PORT`. That a START access is the step with START asserted, before any later access, is
the model's way to have no access between START and its latch (R23, R66, R215; DESIGN CHOICE, log 4). -/
def Obligations.InputWritesTakeEffect : Prop :=
  (∀ (s : State) (i b : Byte) (rest : List HostReq), Accessing (.writeMsg i b) rest s → i.toNat < 255 →
    ∃ m : Memory, step s = .next { s with bus := rest, inputs := { s.inputs with msgBuf := m } } ∧
      m.read i.toNat = b ∧ ∀ j, j ≠ i.toNat → m.read j = s.inputs.msgBuf.read j) ∧
  (∀ (s : State) (n : Byte) (rest : List HostReq), Accessing (.writeLen n) rest s →
    step s = .next { s with bus := rest, inputs := { s.inputs with msgLen := n } }) ∧
  (∀ (s : State) (v : Bool) (rest : List HostReq), Accessing (.writePortValid v) rest s →
    step s = .next { s with bus := rest, inputs := { s.inputs with portValid := v } }) ∧
  (∀ (s : State) (p : Byte) (rest : List HostReq), Accessing (.writePort p) rest s →
    step s = .next { s with bus := rest, inputs := { s.inputs with port := p } }) ∧
  (∀ (s : State) (rest : List HostReq), Accessing .start rest s →
    step s = step { s with bus := rest, inputs := { s.inputs with start := true } })

/-- R38 to R40: the layout of STATUS and the codes of STATE and ERRCODE. -/
def Obligations.StatusLayout : Prop :=
  ∀ o : Outputs,
    o.statusWord.extractLsb' 0 2 =
      (match o.state with | .idle => 0b00#2 | .busy => 0b01#2 | .done => 0b10#2 | .error => 0b11#2) ∧
    o.statusWord.getLsbD 2 = o.fv ∧ o.statusWord.getLsbD 3 = o.mv ∧ o.statusWord.extractLsb' 4 4 = 0#4 ∧
    o.errCode.code =
      (match o.errCode with
        | .none => 0x00#8 | .unknownFormat => 0x01#8 | .truncatedBuffer => 0x02#8 | .unassignedFlag => 0x03#8)

/-- R58: a DECODE changes no message byte, no input and no registry word. -/
def Obligations.DecodeWritesNoMemory : Prop :=
  ∀ s t : State, decodeMessage s = .next t →
    t.inputs = s.inputs ∧ t.snap = s.snap ∧ t.config = s.config ∧ t.bus = s.bus ∧ t.inReset = s.inReset ∧
    t.impl = s.impl ∧ t.hostData = s.hostData ∧ t.draws = s.draws

/-! The operations of a DECODE. -/

/-- R104, R161 to R166: where the registry holds a format row's entry (the row's selectors at the row's index, in REF or in
any registry that extends it), the row selects it and sets the cursor behind its format bytes. -/
def Obligations.FormatRowsSelectTheirEntries : Prop :=
  ∀ (s : State) (en : Entry),
    (s.config.entries[0]? = some en → formatRow 0 en = some .fmtP2 → exec .fmtP2 s = .next { s with
      engine := { s.engine with cur := 0#8, phase := .flags }, out := { s.out with fmtIndex := 0#8 } }) ∧
    (s.config.entries[1]? = some en → formatRow 1 en = some .fmtP3 → exec .fmtP3 s = .next { s with
      engine := { s.engine with cur := 0#8, phase := .flags }, out := { s.out with fmtIndex := 1#8 } }) ∧
    (s.config.entries[2]? = some en → formatRow 2 en = some .fmt0x11 → exec .fmt0x11 s = .next { s with
      engine := { s.engine with cur := 1#8, phase := .flags }, out := { s.out with fmtIndex := 2#8 } }) ∧
    (s.config.entries[3]? = some en → formatRow 3 en = some .fmt0x14 → exec .fmt0x14 s = .next { s with
      engine := { s.engine with cur := 1#8, phase := .flags }, out := { s.out with fmtIndex := 3#8 } }) ∧
    (s.config.entries[4]? = some en → formatRow 4 en = some .fmt0x15 → exec .fmt0x15 s = .next { s with
      engine := { s.engine with cur := 1#8, phase := .flags }, out := { s.out with fmtIndex := 4#8 } })

/-- R105: FETCH_FLAGS reads the byte at the cursor, or raises TruncatedBuffer tied to no flag bit. -/
def Obligations.FetchFlagsReadsTheFlagByte : Prop :=
  ∀ s : State, Running .flags s →
    (s.engine.cur.toNat + 1 ≤ s.snap.len.toNat → step s = .next { s with
      engine := { s.engine with cur := s.engine.cur + 1#8, phase := .norm }
      out := { s.out with flagsRaw := s.snap.mem.read s.engine.cur.toNat, fv := true } }) ∧
    (s.snap.len.toNat < s.engine.cur.toNat + 1 →
      step s = .next (raiseError .truncatedBuffer 0xF#4 s.engine.cur 1#2 s))

/-- R106: NORM_IDENTITY gives the flag byte with bit 8 zero. -/
def Obligations.NormIdentityKeepsTheFlags : Prop :=
  ∀ s : State, ∃ g : Flags9, g.toNat = s.out.flagsRaw.toNat ∧
    exec .normIdentity s = .next { s with
      engine := { s.engine with flagN := g, phase := .check }, out := { s.out with flagsNorm := g } }

/-- R107: NORM_INS2 inserts a zero bit at position 2: `((f >> 2) << 3) | (f & 3)`, 9 bits wide. -/
def Obligations.NormIns2InsertsAZeroBit : Prop :=
  ∀ s : State, ∃ g : Flags9, g.toNat = s.out.flagsRaw.toNat / 4 * 8 + s.out.flagsRaw.toNat % 4 ∧
    (∀ k, k < 2 → g.getLsbD k = s.out.flagsRaw.getLsbD k) ∧ g.getLsbD 2 = false ∧
    (∀ k, 3 ≤ k → k < 9 → g.getLsbD k = s.out.flagsRaw.getLsbD (k - 1)) ∧
    exec .normIns2 s = .next { s with
      engine := { s.engine with flagN := g, phase := .check }, out := { s.out with flagsNorm := g } }

/-- R109: CHECK_ASSIGNED raises UnassignedFlag for the lowest set bit whose slot is not assigned, bit 8 never being
assigned; else the walk begins. -/
def Obligations.CheckAssignedReportsTheLowestBit : Prop :=
  ∀ (s : State) (en : Entry), Running .check s → s.entry? = some en →
    ((∀ k, k < 9 → s.engine.flagN.getLsbD k = true → k ≤ 7 ∧ descKind (en.slot k).d0 ≠ 0#4) →
      step s = .next { s with engine := { s.engine with pend := [], bit := 0#4, sub := 0#2, phase := .walk } }) ∧
    (∀ k, k < 9 → s.engine.flagN.getLsbD k = true → ¬(k ≤ 7 ∧ descKind (en.slot k).d0 ≠ 0#4) →
      (∀ j, j < k → s.engine.flagN.getLsbD j = true → descKind (en.slot j).d0 ≠ 0#4) →
      step s = .next (raiseError .unassignedFlag (BitVec.ofNat 4 k) s.engine.cur 0#2 s))

/-- R110, R111: the walk skips a clear bit without reading or writing a field, and starts the slot of a set one (how the
slot is spread over steps is the model's schedule, log 1). -/
def Obligations.WalkTestsFlagBits : Prop :=
  ∀ s : State, Running .walk s → s.engine.bit.toNat < 8 →
    (s.engine.flagN.getLsbD s.engine.bit.toNat = false →
      step s = .next { s with engine := { s.engine with bit := s.engine.bit + 1#4, sub := 0#2 } }) ∧
    (s.engine.flagN.getLsbD s.engine.bit.toNat = true →
      step s = .next { s with
        engine := { s.engine with sub := 0#2, phase := if s.impl = .readwise then .sub else .slot } })

/-- R115: after bit 7 the pending result becomes the slot file, `CONSUMED <- CUR`, `MV <- 1`, `STATE <- DONE`, and
ERRCODE stays. -/
def Obligations.CommitPublishesThePendingResult : Prop :=
  ∀ s : State, Running .walk s → 8 ≤ s.engine.bit.toNat →
    ∃ t, step s = .next t ∧
      (∀ k, t.out.res.present k = s.engine.pend.present k) ∧
      (∀ k, s.engine.pend.present k = true → lookupKey t.out.res k = lookupKey s.engine.pend k) ∧
      t.out = { s.out with res := t.out.res, consumed := s.engine.cur, mv := true, state := .done } ∧
      t.engine = { s.engine with phase := .idle } ∧ t.snap = s.snap ∧ t.inputs = s.inputs ∧ t.config = s.config

/-- R184: what raising an error writes, and what it keeps. -/
def Obligations.RaiseRecordsTheError : Prop :=
  ∀ (e : ErrCode) (bit : BitVec 4) (cursor : Byte) (need : BitVec 2) (s : State),
    (raiseError e bit cursor need s).out =
      { s.out with errCode := e, errBit := bit, errCursor := cursor, errNeed := need, state := .error } ∧
    (raiseError e bit cursor need s).engine = { s.engine with pend := [], phase := .idle } ∧
    (raiseError e bit cursor need s).snap = s.snap ∧ (raiseError e bit cursor need s).inputs = s.inputs ∧
    (raiseError e bit cursor need s).config = s.config

/-- R85: NONE has no sub-value and ends the slot: nothing is read, the walk goes to the next bit (log 20). -/
def Obligations.NoneEndsItsSlot : Prop :=
  ∀ s : State, exec .kindNone s = .next { s with
    engine := { s.engine with bit := s.engine.bit + 1#4, sub := 0#2, phase := .walk } }

/-! The kinds. -/

/-- R132: U8_RAW delivers the byte as an integer; TruncatedBuffer when the byte does not fit. -/
def Obligations.U8RawDeliversTheByte : Prop :=
  ∀ (key : Key) (s : State),
    (s.engine.cur.toNat + 1 ≤ s.snap.len.toNat →
      ∃ v, IsF64 (rawByte s.snap s.engine.cur.toNat) v ∧ exec (.u8Raw key) s = .next (afterSub 1 key v s)) ∧
    (s.snap.len.toNat < s.engine.cur.toNat + 1 →
      exec (.u8Raw key) s = .next (raiseError .truncatedBuffer s.engine.bit s.engine.cur 1#2 s))

/-- R133: S16_Q12 delivers `s16(raw) / 4096`; TruncatedBuffer when the bytes do not fit. -/
def Obligations.S16Q12DividesBy4096 : Prop :=
  ∀ (key : Key) (s : State),
    (s.engine.cur.toNat + 2 ≤ s.snap.len.toNat →
      ∃ v, IsF64 ((signed16 (rawPair s.snap s.engine.cur.toNat) : ℚ) / 4096) v ∧
        exec (.s16Q12 key) s = .next (afterSub 2 key v s)) ∧
    (s.snap.len.toNat < s.engine.cur.toNat + 2 →
      exec (.s16Q12 key) s = .next (raiseError .truncatedBuffer s.engine.bit s.engine.cur 2#2 s))

/-- R134: S16_Q8 delivers `s16(raw) / 256`; TruncatedBuffer when the bytes do not fit. -/
def Obligations.S16Q8DividesBy256 : Prop :=
  ∀ (key : Key) (s : State),
    (s.engine.cur.toNat + 2 ≤ s.snap.len.toNat →
      ∃ v, IsF64 ((signed16 (rawPair s.snap s.engine.cur.toNat) : ℚ) / 256) v ∧
        exec (.s16Q8 key) s = .next (afterSub 2 key v s)) ∧
    (s.snap.len.toNat < s.engine.cur.toNat + 2 →
      exec (.s16Q8 key) s = .next (raiseError .truncatedBuffer s.engine.bit s.engine.cur 2#2 s))

/-- R135: U16_Q8 delivers `raw / 256` without sign extension; TruncatedBuffer when the bytes do not fit. -/
def Obligations.U16Q8DividesUnsignedBy256 : Prop :=
  ∀ (key : Key) (s : State),
    (s.engine.cur.toNat + 2 ≤ s.snap.len.toNat →
      ∃ v, IsF64 ((rawPair s.snap s.engine.cur.toNat : ℚ) / 256) v ∧
        exec (.u16Q8 key) s = .next (afterSub 2 key v s)) ∧
    (s.snap.len.toNat < s.engine.cur.toNat + 2 →
      exec (.u16Q8 key) s = .next (raiseError .truncatedBuffer s.engine.bit s.engine.cur 2#2 s))

/-- R136: U16_P4 delivers `rne((raw * 4) / 100)`; TruncatedBuffer when the bytes do not fit. -/
def Obligations.U16P4RoundsOnce : Prop :=
  ∀ (key : Key) (s : State),
    (s.engine.cur.toNat + 2 ≤ s.snap.len.toNat →
      ∃ v, IsRne ((rawPair s.snap s.engine.cur.toNat : ℚ) * 4 / 100) v ∧
        exec (.u16P4 key) s = .next (afterSub 2 key v s)) ∧
    (s.snap.len.toNat < s.engine.cur.toNat + 2 →
      exec (.u16P4 key) s = .next (raiseError .truncatedBuffer s.engine.bit s.engine.cur 2#2 s))

/-- R137: U8_PCT delivers `raw * 100 / 256`; TruncatedBuffer when the byte does not fit. -/
def Obligations.U8PctScalesTheByte : Prop :=
  ∀ (key : Key) (s : State),
    (s.engine.cur.toNat + 1 ≤ s.snap.len.toNat →
      ∃ v, IsF64 ((rawByte s.snap s.engine.cur.toNat : ℚ) * 100 / 256) v ∧
        exec (.u8Pct key) s = .next (afterSub 1 key v s)) ∧
    (s.snap.len.toNat < s.engine.cur.toNat + 1 →
      exec (.u8Pct key) s = .next (raiseError .truncatedBuffer s.engine.bit s.engine.cur 1#2 s))

/-- R138: U16_RAW delivers the raw value as an integer; TruncatedBuffer when the bytes do not fit. -/
def Obligations.U16RawDeliversTheValue : Prop :=
  ∀ (key : Key) (s : State),
    (s.engine.cur.toNat + 2 ≤ s.snap.len.toNat →
      ∃ v, IsF64 (rawPair s.snap s.engine.cur.toNat) v ∧ exec (.u16Raw key) s = .next (afterSub 2 key v s)) ∧
    (s.snap.len.toNat < s.engine.cur.toNat + 2 →
      exec (.u16Raw key) s = .next (raiseError .truncatedBuffer s.engine.bit s.engine.cur 2#2 s))

/-- R139: U16_PCT delivers `rne(rne(raw / 65535) * 100)`; TruncatedBuffer when the bytes do not fit. -/
def Obligations.U16PctRoundsTwice : Prop :=
  ∀ (key : Key) (s : State),
    (s.engine.cur.toNat + 2 ≤ s.snap.len.toNat →
      ∃ q v, IsRne ((rawPair s.snap s.engine.cur.toNat : ℚ) / 65535) q ∧ IsRne (f64Value q * 100) v ∧
        exec (.u16Pct key) s = .next (afterSub 2 key v s)) ∧
    (s.snap.len.toNat < s.engine.cur.toNat + 2 →
      exec (.u16Pct key) s = .next (raiseError .truncatedBuffer s.engine.bit s.engine.cur 2#2 s))

/-- R140: FP16_ENG delivers `(MANT / 4096) * 2^(EXP - 15) * 3600 * 4`; TruncatedBuffer when the bytes do not fit. -/
def Obligations.Fp16EngScalesTheMantissa : Prop :=
  ∀ (key : Key) (s : State),
    (s.engine.cur.toNat + 2 ≤ s.snap.len.toNat →
      ∃ v, IsF64 (((rawPair s.snap s.engine.cur.toNat % 4096 : Nat) : ℚ) / 4096 *
          (2 : ℚ) ^ (((rawPair s.snap s.engine.cur.toNat / 4096 : Nat) : Int) - 15) * 3600 * 4) v ∧
        exec (.fp16Eng key) s = .next (afterSub 2 key v s)) ∧
    (s.snap.len.toNat < s.engine.cur.toNat + 2 →
      exec (.fp16Eng key) s = .next (raiseError .truncatedBuffer s.engine.bit s.engine.cur 2#2 s))

/-- R27, R112: a pending write sets its key and leaves every other; slot 0 is hardwired absent, so a write to key 0
changes nothing (log 16). -/
def Obligations.PendingWriteSetsItsKeyOnly : Prop :=
  ∀ (f : ResultFile) (key : Key) (v : F64), f.wf →
    (f.put key v).wf ∧ (key ≠ 0#8 → lookupKey (f.put key v) key.toNat = some v) ∧ f.put 0#8 v = f ∧
    (∀ k, k ≠ key.toNat → lookupKey (f.put key v) k = lookupKey f k)

/-! The slots of REF. -/

/-- R167, R168, R170, R171, R173: the slots of one sub-value of formats 0x14 and 0x15, in any registry whose entry 3 or 4
has the slot's descriptor. -/
def Obligations.SingleFieldSlotsDeliverTheirValue : Prop :=
  ∀ (s : State) (en : Entry),
    (s.config.entries[3]? = some en → en.slot0 = ⟨0x0012#16, 0x0000#16, 0x0000#16⟩ →
      s.engine.cur.toNat + 2 ≤ s.snap.len.toNat →
      ∃ v, IsF64 ((signed16 (rawPair s.snap s.engine.cur.toNat) : ℚ) / 4096) v ∧
        exec .f14VBat s = .next (slotDone 2 0 (s.engine.pend.put 0x01#8 v) s)) ∧
    (s.config.entries[3]? = some en → en.slot2 = ⟨0x0021#16, 0x0000#16, 0x0000#16⟩ →
      s.engine.cur.toNat + 1 ≤ s.snap.len.toNat →
      ∃ v, IsF64 (rawByte s.snap s.engine.cur.toNat) v ∧
        exec .f14Boot s = .next (slotDone 1 2 (s.engine.pend.put 0x02#8 v) s)) ∧
    (s.config.entries[4]? = some en → en.slot0 = ⟨0x0012#16, 0x0000#16, 0x0000#16⟩ →
      s.engine.cur.toNat + 2 ≤ s.snap.len.toNat →
      ∃ v, IsF64 ((signed16 (rawPair s.snap s.engine.cur.toNat) : ℚ) / 4096) v ∧
        exec .f15VBat s = .next (slotDone 2 0 (s.engine.pend.put 0x01#8 v) s)) ∧
    (s.config.entries[4]? = some en → en.slot2 = ⟨0x0021#16, 0x0000#16, 0x0000#16⟩ →
      s.engine.cur.toNat + 1 ≤ s.snap.len.toNat →
      ∃ v, IsF64 (rawByte s.snap s.engine.cur.toNat) v ∧
        exec .f15Boot s = .next (slotDone 1 2 (s.engine.pend.put 0x02#8 v) s)) ∧
    (s.config.entries[4]? = some en → en.slot4 = ⟨0x0067#16, 0x0000#16, 0x0000#16⟩ →
      s.engine.cur.toNat + 2 ≤ s.snap.len.toNat →
      ∃ v, IsF64 (rawPair s.snap s.engine.cur.toNat) v ∧
        exec .f15Lux s = .next (slotDone 2 4 (s.engine.pend.put 0x06#8 v) s)) ∧
    (s.config.entries[4]? = some en → en.slot5 = ⟨0x0073#16, 0x0000#16, 0x0000#16⟩ →
      s.engine.cur.toNat + 2 ≤ s.snap.len.toNat →
      ∃ v, IsF64 ((signed16 (rawPair s.snap s.engine.cur.toNat) : ℚ) / 256) v ∧
        exec .f15TWater s = .next (slotDone 2 5 (s.engine.pend.put 0x07#8 v) s))

/-- R141, R169: F15.env reads t, p and rh from five consecutive bytes, in that order, in any registry whose entry 4 has the
slot's descriptors. -/
def Obligations.EnvSlotReadsThreeFields : Prop :=
  ∀ (s : State) (en : Entry), s.config.entries[4]? = some en → en.slot3 = ⟨0x0033#16, 0x0045#16, 0x0056#16⟩ →
    s.engine.cur.toNat + 5 ≤ s.snap.len.toNat →
    ∃ t p rh, IsF64 ((signed16 (rawPair s.snap s.engine.cur.toNat) : ℚ) / 256) t ∧
      IsRne ((rawPair s.snap (s.engine.cur.toNat + 2) : ℚ) * 4 / 100) p ∧
      IsF64 ((rawByte s.snap (s.engine.cur.toNat + 4) : ℚ) * 100 / 256) rh ∧
      exec .f15Env s = .next
        (slotDone 5 3 (((s.engine.pend.put 0x03#8 t).put 0x04#8 p).put 0x05#8 rh) s)

/-- R142, R172: F15.soil reads tSoil, signed or not as the parameter `SOIL_T_KIND_0x15` says, then rhSoil, in any registry
whose entry 4 has the slot's descriptors for either value of the parameter. -/
def Obligations.SoilSlotReadsTwoFields : Prop :=
  ∀ (s : State) (en : Entry) (d : Half), s.config.entries[4]? = some en → en.slot6 = ⟨d, 0x0096#16, 0x0000#16⟩ →
    d = 0x0083#16 ∨ d = 0x0084#16 → s.engine.cur.toNat + 3 ≤ s.snap.len.toNat →
    ∃ t rh,
      IsF64 ((if d = 0x0083#16 then (signed16 (rawPair s.snap s.engine.cur.toNat) : ℚ)
        else (rawPair s.snap s.engine.cur.toNat : ℚ)) / 256) t ∧
      IsF64 ((rawByte s.snap (s.engine.cur.toNat + 2) : ℚ) * 100 / 256) rh ∧
      exec .f15Soil s = .next (slotDone 3 6 ((s.engine.pend.put 0x08#8 t).put 0x09#8 rh) s)

/-- R112, R183: a slot row whose bytes do not fit raises TruncatedBuffer at its flag bit, at the first sub-value that does
not fit, in any registry whose entry has the slot's descriptors. -/
def Obligations.SlotRowsTruncate : Prop :=
  ∀ (s : State) (i : Instr) (e k : Nat) (en : Entry) (sl : Slot) (widths : List Nat),
    (i, e, k, sl, widths) ∈
      [(Instr.f14VBat, 3, 0, ⟨0x0012#16, 0#16, 0#16⟩, [2]), (.f14Boot, 3, 2, ⟨0x0021#16, 0#16, 0#16⟩, [1]),
        (.f15VBat, 4, 0, ⟨0x0012#16, 0#16, 0#16⟩, [2]), (.f15Boot, 4, 2, ⟨0x0021#16, 0#16, 0#16⟩, [1]),
        (.f15Env, 4, 3, ⟨0x0033#16, 0x0045#16, 0x0056#16⟩, [2, 2, 1]), (.f15Lux, 4, 4, ⟨0x0067#16, 0#16, 0#16⟩, [2]),
        (.f15TWater, 4, 5, ⟨0x0073#16, 0#16, 0#16⟩, [2]), (.f15Soil, 4, 6, ⟨0x0083#16, 0x0096#16, 0#16⟩, [2, 1]),
        (.f15Soil, 4, 6, ⟨0x0084#16, 0x0096#16, 0#16⟩, [2, 1])] →
    s.config.entries[e]? = some en → en.slot k = sl →
    ∀ (before : List Nat) (w : Nat) (after : List Nat), widths = before ++ w :: after →
      s.engine.cur.toNat + before.sum ≤ s.snap.len.toNat → s.snap.len.toNat < s.engine.cur.toNat + before.sum + w →
      ∃ t, exec i s = .next t ∧
        t.out = { s.out with
          errCode := .truncatedBuffer, errBit := BitVec.ofNat 4 k
          errCursor := BitVec.ofNat 8 (s.engine.cur.toNat + before.sum), errNeed := BitVec.ofNat 2 w
          state := .error } ∧
        t.engine.pend = [] ∧ t.engine.phase = .idle

/-- R47, R58, R116: what no instruction changes: the inputs, the configuration, the snapshot with every message byte,
the committed result, `CONSUMED`, MV, FV and `FLAGS_RAW`. -/
def Obligations.InstructionsLeaveTheRestAlone : Prop :=
  ∀ (i : Instr) (s t : State), exec i s = .next t →
    t.inputs = s.inputs ∧ t.config = s.config ∧ t.impl = s.impl ∧ t.snap = s.snap ∧ t.inReset = s.inReset ∧
    t.bus = s.bus ∧ t.hostData = s.hostData ∧ t.draws = s.draws ∧ t.out.res = s.out.res ∧
    t.out.consumed = s.out.consumed ∧ t.out.mv = s.out.mv ∧ t.out.fv = s.out.fv ∧
    t.out.flagsRaw = s.out.flagsRaw ∧
    (∀ a, t.snap.mem.read a = s.snap.mem.read a ∧ t.inputs.msgBuf.read a = s.inputs.msgBuf.read a)

/-! The whole DECODE. -/

/-- R102: LOOKUP returns the first entry in index order whose selectors match, and none when no entry matches. -/
def Obligations.LookupReturnsTheFirstMatch : Prop :=
  ∀ (c : Configuration) (sn : Snapshot),
    (∀ e, lookup c sn = some e ↔
      (∃ en, c.entries[e]? = some en ∧ SelectorsMatch sn en) ∧
      ∀ j en, j < e → c.entries[j]? = some en → ¬ SelectorsMatch sn en) ∧
    (lookup c sn = none ↔ ∀ en ∈ c.entries, ¬ SelectorsMatch sn en)

/-- R103: without a match the DECODE of a START ends with UnknownFormat; no flag byte and no field is read, FMT_INDEX
stays 0xFF. -/
def Obligations.UnknownFormatEndsTheDecode : Prop :=
  ∀ s : State, StartAccepted s → s.impl = .atomic → lookup s.config (latch s).snap = none →
    ∃ t, step s = .next t ∧
      t.out = { Outputs.reset with
        state := .error, errCode := .unknownFormat, errBit := 0xF#4, errCursor := 0#8, errNeed := 0#2 } ∧
      t.engine.pend = [] ∧ t.engine.cur = s.engine.cur ∧ t.engine.flagN = s.engine.flagN

/-- R120: a flag byte of 0 gives an empty result and consumes the format byte, if any, and the flag byte; under both
normalisations only a flag byte of 0 normalises to 0. -/
def Obligations.EmptyFlagsGiveAnEmptyResult : Prop :=
  (∀ f : Byte, (normIdentity f = 0#9 ↔ f = 0#8) ∧ (insertZeroAt2 f = 0#9 ↔ f = 0#8)) ∧
  ∀ (s : State) (e n : Nat) (en : Entry), s.Inv → StartAccepted s → s.impl = .atomic →
    lookup s.config (latch s).snap = some e → s.config.entries[e]? = some en →
    n = (if headerByteEn en.header then 1 else 0) → n < s.inputs.msgLen.toNat → s.inputs.msgBuf.read n = 0#8 →
    ∃ t, step s = .next t ∧ t.out.state = .done ∧ (∀ k, t.out.res.present k = false) ∧ t.out.consumed.toNat = n + 1

/-- R121: a message of a legacy entry decodes as the message of its successor with remapped flags and the same field
data. For `f[7] = 1` it fails with UnassignedFlag, at bit 8 where every lower set bit is assigned (R109 reports the
lowest; see 95_test_vectors.md V25). -/
def Obligations.LegacyEntryDecodesAsItsSuccessor : Prop :=
  ∀ (s r : State) (a b na nb : Nat) (enA enB : Entry) (f : Byte),
    s.config.wellFormed = true → r.config = s.config →
    lookup s.config s.snap = some a → s.config.entries[a]? = some enA → headerNorm enA.header = 0b01#2 →
    lookup r.config r.snap = some b → r.config.entries[b]? = some enB → headerNorm enB.header = 0b00#2 →
    enA.slots = enB.slots →
    na = (if headerByteEn enA.header then 1 else 0) → nb = (if headerByteEn enB.header then 1 else 0) →
    na < s.snap.len.toNat → s.snap.mem.read na = f →
    (f.getLsbD 7 = false → s.snap.len.toNat + nb = r.snap.len.toNat + na →
      (r.snap.mem.read nb).toNat = f.toNat / 4 * 8 + f.toNat % 4 →
      (∀ j, na + 1 + j < s.snap.len.toNat → s.snap.mem.read (na + 1 + j) = r.snap.mem.read (nb + 1 + j)) →
      ∃ t u, decodeMessage s = .next t ∧ decodeMessage r = .next u ∧ t.out.res = u.out.res ∧
        t.out.state = u.out.state ∧ t.out.errCode = u.out.errCode ∧ t.out.errBit = u.out.errBit ∧
        (t.out.state = .done → t.out.consumed.toNat + nb = u.out.consumed.toNat + na)) ∧
    (f.getLsbD 7 = true → ∃ t, decodeMessage s = .next t ∧ t.out.state = .error ∧
      t.out.errCode = .unassignedFlag ∧
      ((∀ k, k < 8 → (insertZeroAt2 f).getLsbD k = true → enA.assigned k = true) → t.out.errBit = 8#4))

/-- R76, R116, R181 to R183, R185, R186: the outcome of a DECODE by the order of its checks: unknown format, flag byte
missing, lowest unassigned bit, the first sub-value that does not fit; else DONE with `CONSUMED` the length its flags
declare. Outputs are given whole. -/
def Obligations.DecodeOutcomeByTheOrderOfChecks : Prop :=
  ∀ s : State, s.config.wellFormed = true →
    (lookup s.config s.snap = none → ∃ t, decodeMessage s = .next t ∧
      t.out = { Outputs.reset with state := .error, errCode := .unknownFormat }) ∧
    (∀ (e n : Nat) (en : Entry), lookup s.config s.snap = some e → s.config.entries[e]? = some en →
      n = (if headerByteEn en.header then 1 else 0) →
      (s.snap.len.toNat < n + 1 → ∃ t, decodeMessage s = .next t ∧
        t.out = { Outputs.reset with
          state := .error, errCode := .truncatedBuffer, errCursor := BitVec.ofNat 8 n, errNeed := 1#2
          fmtIndex := BitVec.ofNat 8 e }) ∧
      (∀ g : Flags9, n + 1 ≤ s.snap.len.toNat → g = normalise en (s.snap.mem.read n) →
        (∀ k, k < 9 → g.getLsbD k = true → ¬(k ≤ 7 ∧ descKind (en.slot k).d0 ≠ 0#4) →
          (∀ j, j < k → g.getLsbD j = true → descKind (en.slot j).d0 ≠ 0#4) →
          ∃ t, decodeMessage s = .next t ∧
            t.out = { Outputs.reset with
              state := .error, fv := true, errCode := .unassignedFlag, errBit := BitVec.ofNat 4 k
              errCursor := BitVec.ofNat 8 (n + 1), fmtIndex := BitVec.ofNat 8 e
              flagsRaw := s.snap.mem.read n, flagsNorm := g }) ∧
        ((∀ k, k < 9 → g.getLsbD k = true → k ≤ 7 ∧ descKind (en.slot k).d0 ≠ 0#4) →
          (messageLength en g ≤ s.snap.len.toNat → ∃ t, decodeMessage s = .next t ∧
            t.out = { Outputs.reset with
              state := .done, fv := true, mv := true, fmtIndex := BitVec.ofNat 8 e
              flagsRaw := s.snap.mem.read n, flagsNorm := g
              consumed := BitVec.ofNat 8 (messageLength en g), res := t.out.res }) ∧
          (s.snap.len.toNat < messageLength en g →
            ∃ (t : State) (k a : Nat) (d : Half) (before after : List Half), decodeMessage s = .next t ∧
              k < 8 ∧ g.getLsbD k = true ∧ (en.slot k).subDescs = before ++ d :: after ∧
              a = n + 1 + ((gatedBelow en g k).map descWidth).sum + (before.map descWidth).sum ∧
              a ≤ s.snap.len.toNat ∧ s.snap.len.toNat < a + descWidth d ∧
              t.out = { Outputs.reset with
                state := .error, fv := true, errCode := .truncatedBuffer, errBit := BitVec.ofNat 4 k
                errCursor := BitVec.ofNat 8 a, errNeed := BitVec.ofNat 2 (descWidth d)
                fmtIndex := BitVec.ofNat 8 e, flagsRaw := s.snap.mem.read n, flagsNorm := g }))))

/-- R28, R75, R112: after DONE a key is present exactly when a gated descriptor names it, and its value is the converted
raw value at the descriptor's place in the message. -/
def Obligations.EveryGatedFieldIsDelivered : Prop :=
  ∀ (s t : State) (e n : Nat) (en : Entry), s.config.wellFormed = true → decodeMessage s = .next t →
    t.out.state = .done → lookup s.config s.snap = some e → s.config.entries[e]? = some en →
    n = (if headerByteEn en.header then 1 else 0) →
    (∀ k, t.out.res.present k = true ↔ ∃ d ∈ gatedDescs en t.out.flagsNorm, (descKey d).toNat = k) ∧
    (∀ (before after : List Half) (d : Half) (i : Instr) (k : Kind) (key : Key) (raw : Half),
      gatedDescs en t.out.flagsNorm = before ++ d :: after → decodeDescriptor d = .ok i → i.sub? = some (k, key) →
      memRead s.snap (n + 1 + (before.map descWidth).sum) (kindWidth k) = some raw →
      lookupKey t.out.res key.toNat = some (convert k raw))

/-- R57, R62, R119: the outputs of a START depend on the configuration and the message alone: bytes at or above
`MSG_LEN`, `PORT` while `PORT_VALID = 0`, and everything an earlier DECODE left have no effect. -/
def Obligations.OutputsDependOnTheMessageAlone : Prop :=
  ∀ s r : State, StartAccepted s → StartAccepted r → s.impl = .atomic → r.impl = .atomic → s.config = r.config →
    s.inputs.SameMessage r.inputs → SameOutputs (step s) (step r)

/-- R123: a multi-cycle DECODE stays BUSY until it completes and then has the outputs of the atomic DECODE on the same
snapshot (the schedules are the model's, log 1). -/
def Obligations.MultiCycleDecodeAgreesWithTheAtomic : Prop :=
  ∀ (s : State) (im : Impl), s.Inv → StartAccepted s → s.bus = [] → im ≠ .atomic →
    ∃ (n : Nat) (t u : State), 0 < n ∧ n ≤ 64 ∧ step { s with impl := .atomic } = .next u ∧
      runSteps n { s with impl := im } = .next t ∧ t.out = u.out ∧ (t.out.state = .done ∨ t.out.state = .error) ∧
      ∀ m r, 0 < m → m < n → runSteps m { s with impl := im } = .next r → r.out.state = .busy

/-- R88, R114, R180: from a state that meets the invariant the block's own step neither faults nor is refused, unless
START is asserted while BUSY or the block is held in reset. -/
def Obligations.BlockStepsFromEveryInvariantState : Prop :=
  ∀ s : State, s.Inv → s.bus = [] ∨ s.inputs.start = true → s.inReset = false →
    ¬(s.out.state = .busy ∧ s.inputs.start = true) →
    ∃ t, step s = .next t

/-! The numbers. -/

/-- R12: `rne` rounds to the nearest binary64, ties to even, for 0 and for every magnitude from the least normal number
up to, but not including, the point half a last place beyond the greatest, from where the rounding is no finite number.
That zero is +0.0 for either sign is the model's (log 18). -/
def Obligations.RneRoundsToNearestEven : Prop :=
  ∀ (neg : Bool) (n d : Nat), 0 < d → (n = 0 ∨ d ≤ n * 2 ^ 1022 ∧ n < d * (2 ^ 1024 - 2 ^ 970)) →
    IsRne ((if neg then -1 else 1) * ((n : ℚ) / d)) (rne neg n d)

/-- R144, R145: no conversion gives a NaN, an infinity, a subnormal or a negative zero, and each stays in its range. -/
def Obligations.ConversionsStayInRange : Prop :=
  ∀ (k : Kind) (raw : Half), (kindWidth k = .one → raw.toNat < 256) →
    F64Finite (convert k raw) ∧ (f64Value (convert k raw) = 0 → convert k raw = 0#64) ∧
    (raw = 0#16 → convert k raw = 0#64) ∧
    (f64Value (convert k raw) ≠ 0 →
      14400 / 2 ^ 27 ≤ |f64Value (convert k raw)| ∧ |f64Value (convert k raw)| ≤ 65535) ∧
    (match k with
      | .u8Raw => 0 ≤ f64Value (convert k raw) ∧ f64Value (convert k raw) ≤ 255
      | .s16Q12 => -8 ≤ f64Value (convert k raw) ∧ f64Value (convert k raw) ≤ 8 - 1 / 2 ^ 12
      | .s16Q8 => -128 ≤ f64Value (convert k raw) ∧ f64Value (convert k raw) ≤ 128 - 1 / 2 ^ 8
      | .u16Q8 => 0 ≤ f64Value (convert k raw) ∧ f64Value (convert k raw) ≤ 256 - 1 / 2 ^ 8
      | .u16P4 => 0 ≤ f64Value (convert k raw) ∧ f64Value (convert k raw) ≤ f64Value 0x40A47ACCCCCCCCCD#64
      | .u8Pct => 0 ≤ f64Value (convert k raw) ∧ f64Value (convert k raw) ≤ 99.609375
      | .u16Raw => 0 ≤ f64Value (convert k raw) ∧ f64Value (convert k raw) ≤ 65535
      | .u16Pct => 0 ≤ f64Value (convert k raw) ∧ f64Value (convert k raw) ≤ 100
      | .fp16Eng => 0 ≤ f64Value (convert k raw) ∧ f64Value (convert k raw) ≤ 14396.484375)

/-- R122: every kind but FP16_ENG gives different raw values different results; FP16_ENG does not. -/
def Obligations.ConversionsAreInjectiveButOne : Prop :=
  (∀ (k : Kind) (a b : Half), k ≠ .fp16Eng → (kindWidth k = .one → a.toNat < 256 ∧ b.toNat < 256) →
    convert k a = convert k b → a = b) ∧
  convert .fp16Eng 0x0800#16 = convert .fp16Eng 0x1400#16

/-! The notations. -/

/-- R95, R98: disassembling the assembly of a well-formed annotated message that can be presented, at its port and under
its name, gives it back: its lines in ascending k, so the message itself where they are written so. -/
def Obligations.DisassemblyInvertsAssembly : Prop :=
  ∀ (c : Configuration) (e : Nat) (en : Entry) (m : AnnotatedMessage) (sn : Snapshot),
    c.wellFormed = true → c.entries[e]? = some en → m.WellFormedFor en → snapshotOf (assemble m) m.port = some sn →
    lookup c sn = some e →
    (∃ lines : List BitLine, lines.Perm m.lines ∧ (lines.map BitLine.bit).Pairwise (· < ·) ∧
      disassemble m.name c sn = .ok { m with lines := lines }) ∧
    ((m.lines.map BitLine.bit).Pairwise (· < ·) → disassemble m.name c sn = .ok m)

/-- R8, R21, R94: a message of up to 255 bytes is presented as it stands, with its port if it has one; a longer one is
refused and has no snapshot. -/
def Obligations.MessagesUpToTheMaximumArePresented : Prop :=
  ∀ (bytes : List Byte) (port : Option Byte) (s : State),
    (bytes.length ≤ 255 → ∃ t, presentMessage bytes port s = .next t ∧ t.inputs.msgLen.toNat = bytes.length ∧
      (∀ i b, bytes[i]? = some b → t.inputs.msgBuf.read i = b) ∧
      (∀ i, bytes.length ≤ i → t.inputs.msgBuf.read i = s.inputs.msgBuf.read i) ∧
      t.inputs.portValid = port.isSome ∧ (∀ p, port = some p → t.inputs.port = p) ∧ t.inputs.start = true ∧
      t = { s with inputs := t.inputs }) ∧
    (255 < bytes.length → presentMessage bytes port s = .refused .messageTooLong ∧ snapshotOf bytes port = none)

/-- R98: the disassembly of a message that decodes assembles to the bytes the DECODE consumed; that of a message that
would fail a DECODE is the failing error. -/
def Obligations.DisassemblyAgreesWithTheDecode : Prop :=
  ∀ (s : State) (name : String), s.config.wellFormed = true →
    match disassemble name s.config s.snap with
    | .ok m => ∃ t, decodeMessage s = .next t ∧ t.out.state = .done ∧
        assemble m = (List.range t.out.consumed.toNat).map fun i => s.snap.mem.read i
    | .error x => ∃ t, decodeMessage s = .next t ∧ t.out.state = .error ∧
        x = ⟨t.out.errCode, t.out.errBit, t.out.errCursor, t.out.errNeed⟩
end

