-- ==== Sys2Proof/Laws/Float64.lean ====
section
/-! SUPPORT. The steps of rounding to binary64, each with what it computes (00_scope.md R12). -/

namespace Sys2Proof.Machine

/-- Rounding to a natural number is off by at most half of the denominator. -/
theorem roundHalfEven_bounds {a b : Nat} (hb : 0 < b) :
    2 * a ≤ 2 * (roundHalfEven a b * b) + b ∧ 2 * (roundHalfEven a b * b) ≤ 2 * a + b := by
  have hd := Nat.div_add_mod a b
  have hr := Nat.mod_lt a hb
  have hm := Nat.mod_lt (a / b) (by decide : 0 < 2)
  have hc : b * (a / b) = a / b * b := Nat.mul_comm _ _
  unfold roundHalfEven
  simp only
  split
  · omega
  · split
    · have : (a / b + 1) * b = a / b * b + b := by ring
      omega
    · rcases (by omega : a / b % 2 = 0 ∨ a / b % 2 = 1) with h | h
      · rw [h, Nat.add_zero]; omega
      · have : (a / b + 1) * b = a / b * b + b := by ring
        rw [h]; omega

/-- A tie is rounded to the even neighbour. -/
theorem roundHalfEven_tie {a b : Nat} (h : 2 * (a % b) = b) : roundHalfEven a b % 2 = 0 := by
  unfold roundHalfEven
  simp only
  split
  · omega
  · split <;> omega

/-- A multiple of the denominator is exact. -/
theorem roundHalfEven_exact {m b : Nat} (hb : 0 < b) : roundHalfEven (m * b) b = m := by
  unfold roundHalfEven
  simp [Nat.mul_mod_left, Nat.mul_div_cancel m hb, hb]

/-- A power of two with an integer exponent as a quotient of natural powers. -/
theorem zpow_split (e : Int) : (2 : ℚ) ^ e = 2 ^ e.toNat / 2 ^ (-e).toNat := by
  rcases le_total 0 e with h | h
  · obtain ⟨k, rfl⟩ := Int.eq_ofNat_of_zero_le h
    simp
  · obtain ⟨k, hk⟩ := Int.eq_ofNat_of_zero_le (by omega : 0 ≤ -e)
    obtain rfl : e = -(k : Int) := by omega
    simp

/-- The natural-number comparison `floorLog2` makes, as one of rationals. -/
theorem scaled_lt_iff {n d : Nat} (hd : 0 < d) (e : Int) :
    n * 2 ^ (-e).toNat < d * 2 ^ e.toNat ↔ (n : ℚ) / d < 2 ^ e := by
  have hd' : (0 : ℚ) < d := by exact_mod_cast hd
  rw [zpow_split, div_lt_div_iff₀ hd' (by positivity), mul_comm ((2 : ℚ) ^ e.toNat)]
  exact_mod_cast Iff.rfl

/-- `floorLog2` brackets the quotient between two powers of two. -/
theorem floorLog2_spec {n d : Nat} (hn : 0 < n) (hd : 0 < d) :
    (2 : ℚ) ^ floorLog2 n d ≤ (n : ℚ) / d ∧ (n : ℚ) / d < 2 ^ (floorLog2 n d + 1) := by
  have hd' : (0 : ℚ) < d := by exact_mod_cast hd
  have n1 : (2 : ℚ) ^ n.log2 ≤ n := by exact_mod_cast Nat.log2_self_le hn.ne'
  have n2 : (n : ℚ) < 2 ^ (n.log2 + 1) := by exact_mod_cast Nat.lt_log2_self
  have d1 : (2 : ℚ) ^ d.log2 ≤ d := by exact_mod_cast Nat.log2_self_le hd.ne'
  have d2 : (d : ℚ) < 2 ^ (d.log2 + 1) := by exact_mod_cast Nat.lt_log2_self
  have two : (2 : ℚ) ≠ 0 := by norm_num
  have p : ∀ k : Nat, (0 : ℚ) < 2 ^ k := fun k => by positivity
  unfold floorLog2
  simp only
  split <;> rename_i h <;> rw [scaled_lt_iff hd] at h
  · refine ⟨?_, by simpa using h⟩
    rw [zpow_sub₀ two, zpow_sub₀ two, zpow_natCast, zpow_natCast, zpow_one, le_div_iff₀ hd']
    have : (2 : ℚ) ^ n.log2 / 2 ^ d.log2 / 2 * d ≤ 2 ^ n.log2 / 2 ^ d.log2 / 2 * 2 ^ (d.log2 + 1) :=
      mul_le_mul_of_nonneg_left d2.le (by positivity)
    refine this.trans (le_trans (le_of_eq ?_) n1)
    rw [pow_succ]; field_simp
  · refine ⟨not_lt.1 h, ?_⟩
    rw [zpow_add₀ two, zpow_sub₀ two, zpow_natCast, zpow_natCast, zpow_one, div_lt_iff₀ hd']
    refine lt_of_lt_of_le n2 ?_
    have : (2 : ℚ) ^ n.log2 / 2 ^ d.log2 * 2 * 2 ^ d.log2 ≤ 2 ^ n.log2 / 2 ^ d.log2 * 2 * d :=
      mul_le_mul_of_nonneg_left d1 (by positivity)
    refine le_trans (le_of_eq ?_) this
    rw [pow_succ]; field_simp

/-- The exponent and significand fields of a word. -/
theorem f64_of_fields {b : F64} {e m : Nat} (h : b.toNat % 2 ^ 63 = e * 2 ^ 52 + m) (hm : m < 2 ^ 52) :
    (b.toNat / 2 ^ 52) % 2 ^ 11 = e ∧ b.toNat % 2 ^ 52 = m := by
  omega

end Sys2Proof.Machine
end

