-- ==== Sys2Proof/Laws/Memory.lean ====
section
/-! SUPPORT. Message memory and result files: reads after writes, and every operation keeps the canonical form. -/

namespace Sys2Proof.Machine

/-! Lists of pairs. -/

theorem lookupKey_insertKey_same {α : Type} (k : Nat) (v : α) (l : List (Nat × α)) :
    lookupKey (insertKey k v l) k = some v := by
  induction l with
  | nil => simp [insertKey, lookupKey]
  | cons p rest ih =>
    obtain ⟨n, w⟩ := p
    simp only [insertKey]
    split
    · simp [lookupKey]
    · split
      · simp [lookupKey]
      · rename_i h1 h2
        simp [lookupKey, ih, Ne.symm h2]

theorem lookupKey_insertKey_other {α : Type} {j k : Nat} (v : α) (l : List (Nat × α)) (h : j ≠ k) :
    lookupKey (insertKey k v l) j = lookupKey l j := by
  induction l with
  | nil => simp [insertKey, lookupKey, Ne.symm h]
  | cons p rest ih =>
    obtain ⟨n, w⟩ := p
    simp only [insertKey]
    split
    · simp [lookupKey, Ne.symm h]
    · split
      · rename_i h1 h2
        subst h2
        simp [lookupKey, Ne.symm h]
      · simp [lookupKey, ih]

theorem lookupKey_filter {α : Type} (f : Nat → Bool) (l : List (Nat × α)) (j : Nat) :
    lookupKey (l.filter fun p => f p.1) j = if f j then lookupKey l j else none := by
  induction l with
  | nil => simp [lookupKey]
  | cons p rest ih =>
    obtain ⟨n, w⟩ := p
    by_cases hn : n = j
    · subst hn
      by_cases hf : f n <;> simp [lookupKey, ih, hf]
    · by_cases hf : f n <;> simp [lookupKey, ih, hf, hn]

theorem lookupKey_append {α : Type} (l m : List (Nat × α)) (j : Nat) :
    lookupKey (l ++ m) j = (lookupKey l j).or (lookupKey m j) := by
  induction l with
  | nil => simp [lookupKey]
  | cons p rest ih =>
    obtain ⟨n, w⟩ := p
    by_cases hn : n = j <;> simp [lookupKey, ih, hn]

theorem mem_of_lookupKey {α : Type} {l : List (Nat × α)} {k : Nat} {v : α} (h : lookupKey l k = some v) :
    (k, v) ∈ l := by
  induction l with
  | nil => simp [lookupKey] at h
  | cons p rest ih =>
    obtain ⟨n, w⟩ := p
    by_cases hn : n = k
    · simp [lookupKey, hn] at h; simp [hn, h]
    · simp [lookupKey, hn] at h; exact List.mem_cons_of_mem _ (ih h)

theorem mem_insertKey {α : Type} {k : Nat} {v : α} {l : List (Nat × α)} {p : Nat × α} (h : p ∈ insertKey k v l) :
    p = (k, v) ∨ p ∈ l := by
  induction l with
  | nil => simpa [insertKey] using h
  | cons q rest ih =>
    obtain ⟨n, w⟩ := q
    simp only [insertKey] at h
    split at h
    · simpa using h
    · split at h
      · rcases List.mem_cons.1 h with h | h
        · exact .inl h
        · exact .inr (List.mem_cons_of_mem _ h)
      · rcases List.mem_cons.1 h with h | h
        · exact .inr (by simp [h])
        · rcases ih h with h | h
          · exact .inl h
          · exact .inr (List.mem_cons_of_mem _ h)

theorem rising_insertKey {α : Type} (k : Nat) (v : α) {l : List (Nat × α)} (h : Rising l) : Rising (insertKey k v l) := by
  induction l with
  | nil => simp [insertKey]
  | cons p rest ih =>
    obtain ⟨n, w⟩ := p
    have hp := List.pairwise_cons.1 h
    simp only [insertKey]
    split
    · rename_i hk
      refine List.pairwise_cons.2 ⟨?_, h⟩
      intro q hq
      rcases List.mem_cons.1 hq with hq | hq
      · simpa [hq] using hk
      · exact Nat.lt_trans hk (hp.1 q hq)
    · split
      · rename_i hk hkn
        exact List.pairwise_cons.2 ⟨fun q hq => by simpa [hkn] using hp.1 q hq, hp.2⟩
      · rename_i hk hkn
        refine List.pairwise_cons.2 ⟨?_, ih hp.2⟩
        intro q hq
        rcases mem_insertKey hq with hq | hq
        · subst hq; simp only; omega
        · exact hp.1 q hq

/-! Message memory (R51, R53). -/

theorem Memory.read_write_same (m : Memory) (a : Nat) (b : Byte) : (m.write a b).read a = b := by
  unfold Memory.write Memory.read
  split
  · rename_i h
    have hf := lookupKey_filter (fun n => n != a) m a
    simp only [bne_self_eq_false, Bool.false_eq_true, if_false] at hf
    simp [eraseKey, hf, h]
  · simp [lookupKey_insertKey_same]

theorem Memory.read_write_other (m : Memory) {a c : Nat} (b : Byte) (h : c ≠ a) : (m.write a b).read c = m.read c := by
  unfold Memory.write Memory.read
  split
  · have hf := lookupKey_filter (fun n => n != a) m c
    simp [h] at hf
    simp [eraseKey, hf]
  · rw [lookupKey_insertKey_other b m h]

theorem Memory.wf_write {m : Memory} {a : Nat} (b : Byte) (h : m.wf) (ha : a < Config.msgMax) : (m.write a b).wf := by
  unfold Memory.write
  split
  · exact ⟨h.1.sublist List.filter_sublist, fun p hp => h.2 p (List.mem_of_mem_filter hp)⟩
  · rename_i hb
    refine ⟨rising_insertKey a b h.1, fun p hp => ?_⟩
    rcases mem_insertKey hp with hp | hp
    · subst hp; exact ⟨ha, hb⟩
    · exact h.2 p hp

/-- The latch of R23: below the length the buffer's bytes, at or above it the old ones. -/
theorem Memory.read_latch (buf old : Memory) (len a : Nat) :
    (Memory.latch buf old len).read a = if a < len then buf.read a else old.read a := by
  have h1 := lookupKey_filter (fun n => decide (n < len)) buf a
  have h2 := lookupKey_filter (fun n => decide (len ≤ n)) old a
  unfold Memory.latch Memory.read
  rw [lookupKey_append, h1, h2]
  by_cases h : a < len
  · simp [h, Nat.not_le.2 h]
  · simp [h, Nat.not_lt.1 h]

theorem Memory.wf_latch {buf old : Memory} (len : Nat) (hb : buf.wf) (ho : old.wf) : (Memory.latch buf old len).wf := by
  constructor
  · refine List.pairwise_append.2 ⟨hb.1.sublist List.filter_sublist, ho.1.sublist List.filter_sublist, ?_⟩
    intro p hp q hq
    have h1 := (List.mem_filter.1 hp).2
    have h2 := (List.mem_filter.1 hq).2
    simp only [decide_eq_true_eq] at h1 h2
    omega
  · intro p hp
    rcases List.mem_append.1 hp with hp | hp
    · exact hb.2 p (List.mem_of_mem_filter hp)
    · exact ho.2 p (List.mem_of_mem_filter hp)

theorem Memory.wf_nil : Memory.wf [] := ⟨List.Pairwise.nil, by simp⟩

/-- The memory of State.reset is canonical. -/
theorem reset_memories_wf : State.reset.inputs.msgBuf.wf ∧ State.reset.snap.mem.wf := ⟨Memory.wf_nil, Memory.wf_nil⟩

/-- Byte a + i of a byte list placed at a. -/
theorem lookupKey_memoryFrom_lt (bytes : List Byte) (a j : Nat) (h : j < a) : lookupKey (memoryFrom a bytes) j = none := by
  induction bytes generalizing a with
  | nil => rfl
  | cons b rest ih =>
    unfold memoryFrom
    split
    · exact ih (a + 1) (by omega)
    · simp [lookupKey, ih (a + 1) (by omega), Nat.ne_of_gt h]

theorem read_memoryFrom (bytes : List Byte) (a i : Nat) :
    Memory.read (memoryFrom a bytes) (a + i) = bytes.getD i Memory.unlisted := by
  induction bytes generalizing a i with
  | nil => simp [memoryFrom, Memory.read, lookupKey]
  | cons b rest ih =>
    cases i with
    | zero =>
      unfold memoryFrom Memory.read
      split
      · rename_i h; simp [lookupKey_memoryFrom_lt rest (a + 1) a (by omega), h]
      · simp [lookupKey]
    | succ i =>
      have hrec : Memory.read (memoryFrom (a + 1) rest) (a + (i + 1)) = rest.getD i Memory.unlisted := by
        rw [← ih (a + 1) i]; congr 1; omega
      unfold memoryFrom
      split
      · simpa using hrec
      · unfold Memory.read at hrec ⊢
        have : a ≠ a + (i + 1) := by omega
        simpa [lookupKey, this] using hrec

theorem mem_memoryFrom {bytes : List Byte} {a : Nat} {p : Host.Cell} (h : p ∈ memoryFrom a bytes) :
    a ≤ p.1 ∧ p.1 < a + bytes.length ∧ p.2 ≠ 0#8 := by
  induction bytes generalizing a with
  | nil => simp [memoryFrom] at h
  | cons b rest ih =>
    unfold memoryFrom at h
    split at h
    · have := ih h; simp only [List.length_cons]; exact ⟨by omega, by omega, this.2.2⟩
    · rename_i hb
      rcases List.mem_cons.1 h with h | h
      · subst h; simp only [List.length_cons]; exact ⟨by omega, by omega, hb⟩
      · have := ih h; simp only [List.length_cons]; exact ⟨by omega, by omega, this.2.2⟩

theorem memoryFrom_wf (bytes : List Byte) (h : bytes.length ≤ Config.msgMax) : Memory.wf (memoryFrom 0 bytes) := by
  have rising : ∀ (bs : List Byte) (a : Nat), Rising (memoryFrom a bs) := by
    intro bs
    induction bs with
    | nil => intro a; exact List.Pairwise.nil
    | cons b rest ih =>
      intro a
      unfold memoryFrom
      split
      · exact ih (a + 1)
      · exact List.pairwise_cons.2 ⟨fun q hq => by have := mem_memoryFrom hq; simp only; omega, ih (a + 1)⟩
  refine ⟨rising bytes 0, fun p hp => ?_⟩
  have := mem_memoryFrom hp
  exact ⟨by omega, this.2.2⟩

/-! Result files (R27). -/

theorem ResultFile.wf_nil : ResultFile.wf [] := ⟨List.Pairwise.nil, by simp⟩

end Sys2Proof.Machine
end

