-- ==== Sys2Proof/Laws/Notation.lean ====
section
/-! SUPPORT. What the assembly of an annotated message does with the order of its lines (R95). -/

namespace Sys2Proof.Machine

theorem ascendingLines_perm (lines : List BitLine) : (ascendingLines lines).Perm lines :=
  List.perm_insertionSort _ lines

theorem ascendingLines_sorted (lines : List BitLine) :
    (ascendingLines lines).Pairwise fun a b => a.bit ≤ b.bit := by
  have : Std.Total fun a b : BitLine => a.bit ≤ b.bit := ⟨fun a b => Nat.le_total a.bit b.bit⟩
  have : IsTrans BitLine fun a b => a.bit ≤ b.bit := ⟨fun _ _ _ => Nat.le_trans⟩
  exact List.pairwise_insertionSort _ lines

/-- Lines of distinct k come out strictly ascending. -/
theorem ascendingLines_strict {lines : List BitLine} (h : (lines.map BitLine.bit).Nodup) :
    ((ascendingLines lines).map BitLine.bit).Pairwise (· < ·) := by
  have hd : ((ascendingLines lines).map BitLine.bit).Pairwise (· ≠ ·) :=
    ((ascendingLines_perm lines).map _).nodup_iff.2 h
  have hs : ((ascendingLines lines).map BitLine.bit).Pairwise (· ≤ ·) :=
    List.pairwise_map.2 (ascendingLines_sorted lines)
  exact (hs.and hd).imp fun ⟨a, b⟩ => Nat.lt_of_le_of_ne a b

/-- Lines written in ascending k stay as they are. -/
theorem ascendingLines_of_sorted {lines : List BitLine} (h : (lines.map BitLine.bit).Pairwise (· < ·)) :
    ascendingLines lines = lines :=
  List.Pairwise.insertionSort_eq ((List.pairwise_map.1 h).imp Nat.le_of_lt)

/-- Two lists of the same lines, each k once, are the same in ascending k: assembly does not see how they are written. -/
theorem assembleLines_perm {a b : List BitLine} (hp : a.Perm b) (h : (a.map BitLine.bit).Nodup) :
    assembleLines a = assembleLines b := by
  have hp' := (ascendingLines_perm a).trans (hp.trans (ascendingLines_perm b).symm)
  have ha := List.pairwise_map.1 (ascendingLines_strict h)
  have hb := List.pairwise_map.1 (ascendingLines_strict ((hp.map _).nodup_iff.1 h))
  have : ascendingLines a = ascendingLines b :=
    hp'.eq_of_pairwise (fun x y _ _ hxy hyx => absurd hyx (Nat.lt_asymm hxy)) ha hb
  simp only [assembleLines, this]

end Sys2Proof.Machine
end

