-- ==== Sys2Proof/Laws/State.lean ====
section
/-! SUPPORT. What each named update of the state does to each field: one lemma per field per update. -/

namespace Sys2Proof.Machine

/-! `raiseError`. -/

@[simp] theorem raiseError_inputs (e : ErrCode) (b : BitVec 4) (c : Byte) (n : BitVec 2) (s : State) : (raiseError e b c n s).inputs = s.inputs := rfl
@[simp] theorem raiseError_config (e : ErrCode) (b : BitVec 4) (c : Byte) (n : BitVec 2) (s : State) : (raiseError e b c n s).config = s.config := rfl
@[simp] theorem raiseError_impl (e : ErrCode) (b : BitVec 4) (c : Byte) (n : BitVec 2) (s : State) : (raiseError e b c n s).impl = s.impl := rfl
@[simp] theorem raiseError_snap (e : ErrCode) (b : BitVec 4) (c : Byte) (n : BitVec 2) (s : State) : (raiseError e b c n s).snap = s.snap := rfl
@[simp] theorem raiseError_engine_cur (e : ErrCode) (b : BitVec 4) (c : Byte) (n : BitVec 2) (s : State) :
    (raiseError e b c n s).engine.cur = s.engine.cur := rfl
@[simp] theorem raiseError_engine_flagN (e : ErrCode) (b : BitVec 4) (c : Byte) (n : BitVec 2) (s : State) :
    (raiseError e b c n s).engine.flagN = s.engine.flagN := rfl
@[simp] theorem raiseError_engine_bit (e : ErrCode) (b : BitVec 4) (c : Byte) (n : BitVec 2) (s : State) :
    (raiseError e b c n s).engine.bit = s.engine.bit := rfl
@[simp] theorem raiseError_engine_sub (e : ErrCode) (b : BitVec 4) (c : Byte) (n : BitVec 2) (s : State) :
    (raiseError e b c n s).engine.sub = s.engine.sub := rfl
@[simp] theorem raiseError_engine_pend (e : ErrCode) (b : BitVec 4) (c : Byte) (n : BitVec 2) (s : State) :
    (raiseError e b c n s).engine.pend = [] := rfl
@[simp] theorem raiseError_engine_phase (e : ErrCode) (b : BitVec 4) (c : Byte) (n : BitVec 2) (s : State) :
    (raiseError e b c n s).engine.phase = .idle := rfl
@[simp] theorem raiseError_out_state (e : ErrCode) (b : BitVec 4) (c : Byte) (n : BitVec 2) (s : State) :
    (raiseError e b c n s).out.state = .error := rfl
@[simp] theorem raiseError_out_fv (e : ErrCode) (b : BitVec 4) (c : Byte) (n : BitVec 2) (s : State) :
    (raiseError e b c n s).out.fv = s.out.fv := rfl
@[simp] theorem raiseError_out_mv (e : ErrCode) (b : BitVec 4) (c : Byte) (n : BitVec 2) (s : State) :
    (raiseError e b c n s).out.mv = s.out.mv := rfl
@[simp] theorem raiseError_out_errCode (e : ErrCode) (b : BitVec 4) (c : Byte) (n : BitVec 2) (s : State) :
    (raiseError e b c n s).out.errCode = e := rfl
@[simp] theorem raiseError_out_errBit (e : ErrCode) (b : BitVec 4) (c : Byte) (n : BitVec 2) (s : State) :
    (raiseError e b c n s).out.errBit = b := rfl
@[simp] theorem raiseError_out_errCursor (e : ErrCode) (b : BitVec 4) (c : Byte) (n : BitVec 2) (s : State) :
    (raiseError e b c n s).out.errCursor = c := rfl
@[simp] theorem raiseError_out_errNeed (e : ErrCode) (b : BitVec 4) (c : Byte) (n : BitVec 2) (s : State) :
    (raiseError e b c n s).out.errNeed = n := rfl
@[simp] theorem raiseError_out_fmtIndex (e : ErrCode) (b : BitVec 4) (c : Byte) (n : BitVec 2) (s : State) :
    (raiseError e b c n s).out.fmtIndex = s.out.fmtIndex := rfl
@[simp] theorem raiseError_out_flagsRaw (e : ErrCode) (b : BitVec 4) (c : Byte) (n : BitVec 2) (s : State) :
    (raiseError e b c n s).out.flagsRaw = s.out.flagsRaw := rfl
@[simp] theorem raiseError_out_flagsNorm (e : ErrCode) (b : BitVec 4) (c : Byte) (n : BitVec 2) (s : State) :
    (raiseError e b c n s).out.flagsNorm = s.out.flagsNorm := rfl
@[simp] theorem raiseError_out_consumed (e : ErrCode) (b : BitVec 4) (c : Byte) (n : BitVec 2) (s : State) :
    (raiseError e b c n s).out.consumed = s.out.consumed := rfl
@[simp] theorem raiseError_out_res (e : ErrCode) (b : BitVec 4) (c : Byte) (n : BitVec 2) (s : State) :
    (raiseError e b c n s).out.res = s.out.res := rfl
@[simp] theorem raiseError_inReset (e : ErrCode) (b : BitVec 4) (c : Byte) (n : BitVec 2) (s : State) : (raiseError e b c n s).inReset = s.inReset := rfl
@[simp] theorem raiseError_bus (e : ErrCode) (b : BitVec 4) (c : Byte) (n : BitVec 2) (s : State) : (raiseError e b c n s).bus = s.bus := rfl
@[simp] theorem raiseError_hostData (e : ErrCode) (b : BitVec 4) (c : Byte) (n : BitVec 2) (s : State) : (raiseError e b c n s).hostData = s.hostData := rfl
@[simp] theorem raiseError_draws (e : ErrCode) (b : BitVec 4) (c : Byte) (n : BitVec 2) (s : State) : (raiseError e b c n s).draws = s.draws := rfl

/-! `latch`. -/

@[simp] theorem latch_inputs_msgBuf (s : State) : (latch s).inputs.msgBuf = s.inputs.msgBuf := rfl
@[simp] theorem latch_inputs_msgLen (s : State) : (latch s).inputs.msgLen = s.inputs.msgLen := rfl
@[simp] theorem latch_inputs_portValid (s : State) : (latch s).inputs.portValid = s.inputs.portValid := rfl
@[simp] theorem latch_inputs_port (s : State) : (latch s).inputs.port = s.inputs.port := rfl
@[simp] theorem latch_inputs_start (s : State) : (latch s).inputs.start = false := rfl
@[simp] theorem latch_config (s : State) : (latch s).config = s.config := rfl
@[simp] theorem latch_impl (s : State) : (latch s).impl = s.impl := rfl
@[simp] theorem latch_snap_mem (s : State) :
    (latch s).snap.mem = Memory.latch s.inputs.msgBuf s.snap.mem s.inputs.msgLen.toNat := rfl
@[simp] theorem latch_snap_len (s : State) : (latch s).snap.len = s.inputs.msgLen := rfl
@[simp] theorem latch_snap_portValid (s : State) : (latch s).snap.portValid = s.inputs.portValid := rfl
@[simp] theorem latch_snap_port (s : State) : (latch s).snap.port = s.inputs.port := rfl
@[simp] theorem latch_engine (s : State) : (latch s).engine = s.engine := rfl
@[simp] theorem latch_out (s : State) : (latch s).out = s.out := rfl
@[simp] theorem latch_inReset (s : State) : (latch s).inReset = s.inReset := rfl
@[simp] theorem latch_bus (s : State) : (latch s).bus = s.bus := rfl
@[simp] theorem latch_hostData (s : State) : (latch s).hostData = s.hostData := rfl
@[simp] theorem latch_draws (s : State) : (latch s).draws = s.draws := rfl

/-! `reinit`. -/

@[simp] theorem reinit_inputs (s : State) : (reinit s).inputs = s.inputs := rfl
@[simp] theorem reinit_config (s : State) : (reinit s).config = s.config := rfl
@[simp] theorem reinit_impl (s : State) : (reinit s).impl = s.impl := rfl
@[simp] theorem reinit_snap (s : State) : (reinit s).snap = s.snap := rfl
@[simp] theorem reinit_engine_cur (s : State) : (reinit s).engine.cur = s.engine.cur := rfl
@[simp] theorem reinit_engine_flagN (s : State) : (reinit s).engine.flagN = s.engine.flagN := rfl
@[simp] theorem reinit_engine_bit (s : State) : (reinit s).engine.bit = s.engine.bit := rfl
@[simp] theorem reinit_engine_sub (s : State) : (reinit s).engine.sub = s.engine.sub := rfl
@[simp] theorem reinit_engine_pend (s : State) : (reinit s).engine.pend = [] := rfl
@[simp] theorem reinit_engine_phase (s : State) : (reinit s).engine.phase = s.engine.phase := rfl
@[simp] theorem reinit_out_state (s : State) : (reinit s).out.state = s.out.state := rfl
@[simp] theorem reinit_out_fv (s : State) : (reinit s).out.fv = false := rfl
@[simp] theorem reinit_out_mv (s : State) : (reinit s).out.mv = false := rfl
@[simp] theorem reinit_out_errCode (s : State) : (reinit s).out.errCode = .none := rfl
@[simp] theorem reinit_out_errBit (s : State) : (reinit s).out.errBit = 0xF#4 := rfl
@[simp] theorem reinit_out_errCursor (s : State) : (reinit s).out.errCursor = 0x00#8 := rfl
@[simp] theorem reinit_out_errNeed (s : State) : (reinit s).out.errNeed = 0#2 := rfl
@[simp] theorem reinit_out_fmtIndex (s : State) : (reinit s).out.fmtIndex = 0xFF#8 := rfl
@[simp] theorem reinit_out_flagsRaw (s : State) : (reinit s).out.flagsRaw = 0x00#8 := rfl
@[simp] theorem reinit_out_flagsNorm (s : State) : (reinit s).out.flagsNorm = 0x000#9 := rfl
@[simp] theorem reinit_out_consumed (s : State) : (reinit s).out.consumed = 0x00#8 := rfl
@[simp] theorem reinit_out_res (s : State) : (reinit s).out.res = [] := rfl
@[simp] theorem reinit_inReset (s : State) : (reinit s).inReset = s.inReset := rfl
@[simp] theorem reinit_bus (s : State) : (reinit s).bus = s.bus := rfl
@[simp] theorem reinit_hostData (s : State) : (reinit s).hostData = s.hostData := rfl
@[simp] theorem reinit_draws (s : State) : (reinit s).draws = s.draws := rfl

/-! `beginDecode`. -/

@[simp] theorem beginDecode_inputs (s : State) : (beginDecode s).inputs = s.inputs := rfl
@[simp] theorem beginDecode_config (s : State) : (beginDecode s).config = s.config := rfl
@[simp] theorem beginDecode_impl (s : State) : (beginDecode s).impl = s.impl := rfl
@[simp] theorem beginDecode_snap (s : State) : (beginDecode s).snap = s.snap := rfl
@[simp] theorem beginDecode_engine_cur (s : State) : (beginDecode s).engine.cur = s.engine.cur := rfl
@[simp] theorem beginDecode_engine_flagN (s : State) : (beginDecode s).engine.flagN = s.engine.flagN := rfl
@[simp] theorem beginDecode_engine_bit (s : State) : (beginDecode s).engine.bit = s.engine.bit := rfl
@[simp] theorem beginDecode_engine_sub (s : State) : (beginDecode s).engine.sub = s.engine.sub := rfl
@[simp] theorem beginDecode_engine_pend (s : State) : (beginDecode s).engine.pend = [] := rfl
@[simp] theorem beginDecode_engine_phase (s : State) : (beginDecode s).engine.phase = .lookup := rfl
@[simp] theorem beginDecode_out_state (s : State) : (beginDecode s).out.state = .busy := rfl
@[simp] theorem beginDecode_out_fv (s : State) : (beginDecode s).out.fv = false := rfl
@[simp] theorem beginDecode_out_mv (s : State) : (beginDecode s).out.mv = false := rfl
@[simp] theorem beginDecode_out_errCode (s : State) : (beginDecode s).out.errCode = .none := rfl
@[simp] theorem beginDecode_out_errBit (s : State) : (beginDecode s).out.errBit = 0xF#4 := rfl
@[simp] theorem beginDecode_out_errCursor (s : State) : (beginDecode s).out.errCursor = 0x00#8 := rfl
@[simp] theorem beginDecode_out_errNeed (s : State) : (beginDecode s).out.errNeed = 0#2 := rfl
@[simp] theorem beginDecode_out_fmtIndex (s : State) : (beginDecode s).out.fmtIndex = 0xFF#8 := rfl
@[simp] theorem beginDecode_out_flagsRaw (s : State) : (beginDecode s).out.flagsRaw = 0x00#8 := rfl
@[simp] theorem beginDecode_out_flagsNorm (s : State) : (beginDecode s).out.flagsNorm = 0x000#9 := rfl
@[simp] theorem beginDecode_out_consumed (s : State) : (beginDecode s).out.consumed = 0x00#8 := rfl
@[simp] theorem beginDecode_out_res (s : State) : (beginDecode s).out.res = [] := rfl
@[simp] theorem beginDecode_inReset (s : State) : (beginDecode s).inReset = s.inReset := rfl
@[simp] theorem beginDecode_bus (s : State) : (beginDecode s).bus = s.bus := rfl
@[simp] theorem beginDecode_hostData (s : State) : (beginDecode s).hostData = s.hostData := rfl
@[simp] theorem beginDecode_draws (s : State) : (beginDecode s).draws = s.draws := rfl

/-! `storeFlags`. -/

@[simp] theorem storeFlags_inputs (f : Byte → Flags9) (s : State) : (storeFlags f s).inputs = s.inputs := rfl
@[simp] theorem storeFlags_config (f : Byte → Flags9) (s : State) : (storeFlags f s).config = s.config := rfl
@[simp] theorem storeFlags_impl (f : Byte → Flags9) (s : State) : (storeFlags f s).impl = s.impl := rfl
@[simp] theorem storeFlags_snap (f : Byte → Flags9) (s : State) : (storeFlags f s).snap = s.snap := rfl
@[simp] theorem storeFlags_engine_cur (f : Byte → Flags9) (s : State) :
    (storeFlags f s).engine.cur = s.engine.cur := rfl
@[simp] theorem storeFlags_engine_flagN (f : Byte → Flags9) (s : State) :
    (storeFlags f s).engine.flagN = f s.out.flagsRaw := rfl
@[simp] theorem storeFlags_engine_bit (f : Byte → Flags9) (s : State) :
    (storeFlags f s).engine.bit = s.engine.bit := rfl
@[simp] theorem storeFlags_engine_sub (f : Byte → Flags9) (s : State) :
    (storeFlags f s).engine.sub = s.engine.sub := rfl
@[simp] theorem storeFlags_engine_pend (f : Byte → Flags9) (s : State) :
    (storeFlags f s).engine.pend = s.engine.pend := rfl
@[simp] theorem storeFlags_engine_phase (f : Byte → Flags9) (s : State) :
    (storeFlags f s).engine.phase = .check := rfl
@[simp] theorem storeFlags_out_state (f : Byte → Flags9) (s : State) : (storeFlags f s).out.state = s.out.state := rfl
@[simp] theorem storeFlags_out_fv (f : Byte → Flags9) (s : State) : (storeFlags f s).out.fv = s.out.fv := rfl
@[simp] theorem storeFlags_out_mv (f : Byte → Flags9) (s : State) : (storeFlags f s).out.mv = s.out.mv := rfl
@[simp] theorem storeFlags_out_errCode (f : Byte → Flags9) (s : State) :
    (storeFlags f s).out.errCode = s.out.errCode := rfl
@[simp] theorem storeFlags_out_errBit (f : Byte → Flags9) (s : State) :
    (storeFlags f s).out.errBit = s.out.errBit := rfl
@[simp] theorem storeFlags_out_errCursor (f : Byte → Flags9) (s : State) :
    (storeFlags f s).out.errCursor = s.out.errCursor := rfl
@[simp] theorem storeFlags_out_errNeed (f : Byte → Flags9) (s : State) :
    (storeFlags f s).out.errNeed = s.out.errNeed := rfl
@[simp] theorem storeFlags_out_fmtIndex (f : Byte → Flags9) (s : State) :
    (storeFlags f s).out.fmtIndex = s.out.fmtIndex := rfl
@[simp] theorem storeFlags_out_flagsRaw (f : Byte → Flags9) (s : State) :
    (storeFlags f s).out.flagsRaw = s.out.flagsRaw := rfl
@[simp] theorem storeFlags_out_flagsNorm (f : Byte → Flags9) (s : State) :
    (storeFlags f s).out.flagsNorm = f s.out.flagsRaw := rfl
@[simp] theorem storeFlags_out_consumed (f : Byte → Flags9) (s : State) :
    (storeFlags f s).out.consumed = s.out.consumed := rfl
@[simp] theorem storeFlags_out_res (f : Byte → Flags9) (s : State) : (storeFlags f s).out.res = s.out.res := rfl
@[simp] theorem storeFlags_inReset (f : Byte → Flags9) (s : State) : (storeFlags f s).inReset = s.inReset := rfl
@[simp] theorem storeFlags_bus (f : Byte → Flags9) (s : State) : (storeFlags f s).bus = s.bus := rfl
@[simp] theorem storeFlags_hostData (f : Byte → Flags9) (s : State) : (storeFlags f s).hostData = s.hostData := rfl
@[simp] theorem storeFlags_draws (f : Byte → Flags9) (s : State) : (storeFlags f s).draws = s.draws := rfl

/-! `endSlot`. -/

@[simp] theorem endSlot_inputs (s : State) : (endSlot s).inputs = s.inputs := rfl
@[simp] theorem endSlot_config (s : State) : (endSlot s).config = s.config := rfl
@[simp] theorem endSlot_impl (s : State) : (endSlot s).impl = s.impl := rfl
@[simp] theorem endSlot_snap (s : State) : (endSlot s).snap = s.snap := rfl
@[simp] theorem endSlot_engine_cur (s : State) : (endSlot s).engine.cur = s.engine.cur := rfl
@[simp] theorem endSlot_engine_flagN (s : State) : (endSlot s).engine.flagN = s.engine.flagN := rfl
@[simp] theorem endSlot_engine_bit (s : State) : (endSlot s).engine.bit = s.engine.bit + 1#4 := rfl
@[simp] theorem endSlot_engine_sub (s : State) : (endSlot s).engine.sub = 0#2 := rfl
@[simp] theorem endSlot_engine_pend (s : State) : (endSlot s).engine.pend = s.engine.pend := rfl
@[simp] theorem endSlot_engine_phase (s : State) : (endSlot s).engine.phase = .walk := rfl
@[simp] theorem endSlot_out (s : State) : (endSlot s).out = s.out := rfl
@[simp] theorem endSlot_inReset (s : State) : (endSlot s).inReset = s.inReset := rfl
@[simp] theorem endSlot_bus (s : State) : (endSlot s).bus = s.bus := rfl
@[simp] theorem endSlot_hostData (s : State) : (endSlot s).hostData = s.hostData := rfl
@[simp] theorem endSlot_draws (s : State) : (endSlot s).draws = s.draws := rfl

/-! `commit`. -/

@[simp] theorem commit_inputs (s : State) : (commit s).inputs = s.inputs := rfl
@[simp] theorem commit_config (s : State) : (commit s).config = s.config := rfl
@[simp] theorem commit_impl (s : State) : (commit s).impl = s.impl := rfl
@[simp] theorem commit_snap (s : State) : (commit s).snap = s.snap := rfl
@[simp] theorem commit_engine_cur (s : State) : (commit s).engine.cur = s.engine.cur := rfl
@[simp] theorem commit_engine_flagN (s : State) : (commit s).engine.flagN = s.engine.flagN := rfl
@[simp] theorem commit_engine_bit (s : State) : (commit s).engine.bit = s.engine.bit := rfl
@[simp] theorem commit_engine_sub (s : State) : (commit s).engine.sub = s.engine.sub := rfl
@[simp] theorem commit_engine_pend (s : State) : (commit s).engine.pend = s.engine.pend := rfl
@[simp] theorem commit_engine_phase (s : State) : (commit s).engine.phase = .idle := rfl
@[simp] theorem commit_out_state (s : State) : (commit s).out.state = .done := rfl
@[simp] theorem commit_out_fv (s : State) : (commit s).out.fv = s.out.fv := rfl
@[simp] theorem commit_out_mv (s : State) : (commit s).out.mv = true := rfl
@[simp] theorem commit_out_errCode (s : State) : (commit s).out.errCode = s.out.errCode := rfl
@[simp] theorem commit_out_errBit (s : State) : (commit s).out.errBit = s.out.errBit := rfl
@[simp] theorem commit_out_errCursor (s : State) : (commit s).out.errCursor = s.out.errCursor := rfl
@[simp] theorem commit_out_errNeed (s : State) : (commit s).out.errNeed = s.out.errNeed := rfl
@[simp] theorem commit_out_fmtIndex (s : State) : (commit s).out.fmtIndex = s.out.fmtIndex := rfl
@[simp] theorem commit_out_flagsRaw (s : State) : (commit s).out.flagsRaw = s.out.flagsRaw := rfl
@[simp] theorem commit_out_flagsNorm (s : State) : (commit s).out.flagsNorm = s.out.flagsNorm := rfl
@[simp] theorem commit_out_consumed (s : State) : (commit s).out.consumed = s.engine.cur := rfl
@[simp] theorem commit_out_res (s : State) : (commit s).out.res = s.engine.pend := rfl
@[simp] theorem commit_inReset (s : State) : (commit s).inReset = s.inReset := rfl
@[simp] theorem commit_bus (s : State) : (commit s).bus = s.bus := rfl
@[simp] theorem commit_hostData (s : State) : (commit s).hostData = s.hostData := rfl
@[simp] theorem commit_draws (s : State) : (commit s).draws = s.draws := rfl

/-! `resetWith`. -/

@[simp] theorem resetWith_inputs (c : Configuration) (s : State) : (resetWith c s).inputs = s.inputs := rfl
@[simp] theorem resetWith_config (c : Configuration) (s : State) : (resetWith c s).config = c := rfl
@[simp] theorem resetWith_impl (c : Configuration) (s : State) : (resetWith c s).impl = s.impl := rfl
@[simp] theorem resetWith_snap (c : Configuration) (s : State) : (resetWith c s).snap = Snapshot.reset := rfl
@[simp] theorem resetWith_engine (c : Configuration) (s : State) : (resetWith c s).engine = Engine.reset := rfl
@[simp] theorem resetWith_out (c : Configuration) (s : State) : (resetWith c s).out = Outputs.reset := rfl
@[simp] theorem resetWith_inReset (c : Configuration) (s : State) : (resetWith c s).inReset = false := rfl
@[simp] theorem resetWith_bus (c : Configuration) (s : State) : (resetWith c s).bus = s.bus := rfl
@[simp] theorem resetWith_hostData (c : Configuration) (s : State) : (resetWith c s).hostData = s.hostData := rfl
@[simp] theorem resetWith_draws (c : Configuration) (s : State) : (resetWith c s).draws = s.draws := rfl

end Sys2Proof.Machine
end

