-- ==== Sys2Proof/Laws/Ops.lean ====
section
/-! SUPPORT. What each shared operation can do, said once: equations, inversions and frames. -/

namespace Sys2Proof.Machine

/-! `MemRead` (R53). -/

@[simp] theorem Width.bytes_one : Width.one.bytes = 1 := rfl
@[simp] theorem Width.bytes_two : Width.two.bytes = 2 := rfl

theorem memRead_eq_none {sn : Snapshot} {a : Nat} {w : Width} :
    memRead sn a w = none ↔ sn.len.toNat < a + w.bytes := by
  unfold memRead
  split
  · simpa using ‹_›
  · rename_i h
    cases w <;> simpa using h

theorem memRead_one {sn : Snapshot} {a : Nat} (h : a + 1 ≤ sn.len.toNat) :
    memRead sn a .one = some ((sn.mem.read a).setWidth 16) := by
  simp [memRead, Nat.not_lt.2 h]

theorem memRead_two {sn : Snapshot} {a : Nat} (h : a + 2 ≤ sn.len.toNat) :
    memRead sn a .two = some (bigEndian (sn.mem.read a) (sn.mem.read (a + 1))) := by
  simp [memRead, Nat.not_lt.2 h]

theorem memRead_some_le {sn : Snapshot} {a : Nat} {w : Width} {raw : Half} (h : memRead sn a w = some raw) :
    a + w.bytes ≤ sn.len.toNat := by
  by_contra hc
  rw [memRead_eq_none.2 (by omega)] at h
  cases h

/-- A one-byte raw value as an integer (R77). -/
theorem toNat_setWidth_byte (b : Byte) : (b.setWidth 16).toNat = b.toNat := by
  simp only [BitVec.toNat_setWidth]; have := b.isLt; omega

/-- A two-byte raw value as an integer (R78). -/
theorem toNat_bigEndian (b0 b1 : Byte) : (bigEndian b0 b1).toNat = b0.toNat * 256 + b1.toNat := by
  have h1 := b1.isLt
  simp only [bigEndian, BitVec.toNat_append]
  rw [Nat.shiftLeft_eq, Nat.mul_comm, ← Nat.two_pow_add_eq_or_of_lt h1]

/-- `s16` of a raw value as an integer (R79). -/
theorem s16_eq_signed16 (raw : Half) : s16 raw = signed16 raw.toNat := by
  have h : raw.getLsbD 15 = decide (32768 ≤ raw.toNat) := by
    have := raw.isLt
    rw [show raw.getLsbD 15 = raw.msb from (BitVec.msb_eq_getLsbD_last raw).symm, BitVec.msb_eq_decide]
  unfold s16 signed16
  rw [h]
  simp only [decide_eq_true_eq]

/-! Sequencing. -/

theorem finish_next {r : Except Result State} {f : State → State} {t : State} (h : finish r f = .next t) :
    (∃ u, r = .ok u ∧ t = f u) ∨ r = .error (.next t) := by
  cases r with
  | ok u => simp only [finish, Host.Outcome.next.injEq] at h; exact .inl ⟨u, rfl, h.symm⟩
  | error x => simp only [finish] at h; exact .inr (by rw [h])

theorem thenRun_next {r : Result} {f : State → Result} {t : State} (h : thenRun r f = .next t) :
    (r = .next t ∧ t.raised = true) ∨ ∃ u, r = .next u ∧ u.raised = false ∧ f u = .next t := by
  cases r with
  | next u =>
    simp only [thenRun] at h
    split at h
    · rename_i hu; cases h; exact .inl ⟨rfl, hu⟩
    · rename_i hu; exact .inr ⟨u, rfl, by simpa using hu, h⟩
  | fault x => cases h
  | refused x => cases h

@[simp] theorem thenRun_next_raised {u : State} (f : State → Result) (h : u.raised = true) :
    thenRun (.next u) f = .next u := by simp [thenRun, h]

@[simp] theorem thenRun_next_going {u : State} (f : State → Result) (h : u.raised = false) :
    thenRun (.next u) f = f u := by simp [thenRun, h]

/-! Frames: what every operation of a DECODE leaves alone (R58). -/

/-- Inputs, configuration, snapshot, reset line and the model's host side are as before. -/
structure SameAround (s t : State) : Prop where
  inputs : t.inputs = s.inputs
  config : t.config = s.config
  impl : t.impl = s.impl
  snap : t.snap = s.snap
  inReset : t.inReset = s.inReset
  bus : t.bus = s.bus
  hostData : t.hostData = s.hostData
  draws : t.draws = s.draws

theorem SameAround.refl (s : State) : SameAround s s := ⟨rfl, rfl, rfl, rfl, rfl, rfl, rfl, rfl⟩

theorem SameAround.trans {s t u : State} (h : SameAround s t) (g : SameAround t u) : SameAround s u :=
  ⟨g.inputs.trans h.inputs, g.config.trans h.config, g.impl.trans h.impl, g.snap.trans h.snap,
    g.inReset.trans h.inReset, g.bus.trans h.bus, g.hostData.trans h.hostData, g.draws.trans h.draws⟩

theorem raiseError_around (e : ErrCode) (b : BitVec 4) (c : Byte) (n : BitVec 2) (s : State) :
    SameAround s (raiseError e b c n s) := ⟨rfl, rfl, rfl, rfl, rfl, rfl, rfl, rfl⟩

theorem endSlot_around (s : State) : SameAround s (endSlot s) := ⟨rfl, rfl, rfl, rfl, rfl, rfl, rfl, rfl⟩

theorem storeFlags_around (f : Byte → Flags9) (s : State) : SameAround s (storeFlags f s) :=
  ⟨rfl, rfl, rfl, rfl, rfl, rfl, rfl, rfl⟩

theorem commit_around (s : State) : SameAround s (commit s) := ⟨rfl, rfl, rfl, rfl, rfl, rfl, rfl, rfl⟩

theorem reinit_around (s : State) : SameAround s (reinit s) := ⟨rfl, rfl, rfl, rfl, rfl, rfl, rfl, rfl⟩

theorem nextSub_around (s : State) : SameAround s (nextSub s) := by
  unfold nextSub
  split
  · exact endSlot_around s
  · exact ⟨rfl, rfl, rfl, rfl, rfl, rfl, rfl, rfl⟩

@[simp] theorem nextSub_out (s : State) : (nextSub s).out = s.out := by
  unfold nextSub
  split <;> rfl

theorem fetchFlags_around (s : State) : SameAround s (fetchFlags s) := by
  unfold fetchFlags
  split
  · exact raiseError_around _ _ _ _ s
  · exact ⟨rfl, rfl, rfl, rfl, rfl, rfl, rfl, rfl⟩

theorem walk_around (s : State) : SameAround s (walk s) := by
  unfold walk
  split
  · exact commit_around s
  · split
    · exact ⟨rfl, rfl, rfl, rfl, rfl, rfl, rfl, rfl⟩
    · exact endSlot_around s

/-! Dispatch, check and walk. -/

theorem selectEntry_eq {s : State} {e : Nat} {en : Entry} (h : s.config.entries[e]? = some en) :
    selectEntry e s = .next { s with
      engine := { s.engine with cur := if headerByteEn en.header then 1#8 else 0#8, phase := .flags }
      out := { s.out with fmtIndex := BitVec.ofNat 8 e } } := by
  simp [selectEntry, h]

theorem selectEntry_next {s t : State} {e : Nat} (h : selectEntry e s = .next t) :
    ∃ en, s.config.entries[e]? = some en ∧ t = { s with
      engine := { s.engine with cur := if headerByteEn en.header then 1#8 else 0#8, phase := .flags }
      out := { s.out with fmtIndex := BitVec.ofNat 8 e } } := by
  cases hen : s.config.entries[e]? with
  | none => simp [selectEntry, hen] at h
  | some en => rw [selectEntry_eq hen] at h; cases h; exact ⟨en, rfl, rfl⟩

theorem checkAssigned_next {s t : State} (h : checkAssigned s = .next t) :
    ∃ en, s.entry? = some en ∧
      ((∃ k, firstUnassigned en s.engine.flagN = some k ∧
          t = raiseError .unassignedFlag (BitVec.ofNat 4 k) s.engine.cur 0#2 s) ∨
        (firstUnassigned en s.engine.flagN = none ∧
          t = { s with engine := { s.engine with pend := [], bit := 0#4, sub := 0#2, phase := .walk } })) := by
  cases hen : s.entry? with
  | none => simp [checkAssigned, hen] at h
  | some en =>
    refine ⟨en, rfl, ?_⟩
    simp only [checkAssigned, hen] at h
    split at h <;> rename_i hk <;> cases h
    · exact .inl ⟨_, hk, rfl⟩
    · exact .inr ⟨hk, rfl⟩

/-! Sub-values and slots (R112). -/

theorem readSub_none {k : Kind} {key : Key} {s : State} (h : memRead s.snap s.engine.cur.toNat (kindWidth k) = none) :
    readSub k key s = .error (.next (raiseError .truncatedBuffer s.engine.bit s.engine.cur
      (BitVec.ofNat 2 (kindWidth k).bytes) s)) := by
  simp [readSub, h]

theorem readSub_some {k : Kind} {key : Key} {s : State} {raw : Half}
    (h : memRead s.snap s.engine.cur.toNat (kindWidth k) = some raw) :
    readSub k key s = .ok { s with
      engine := { s.engine with
        cur := s.engine.cur + BitVec.ofNat 8 (kindWidth k).bytes
        pend := s.engine.pend.put key (convert k raw) } } := by
  simp [readSub, h]

theorem readSub_ok {k : Kind} {key : Key} {s t : State} (h : readSub k key s = .ok t) :
    ∃ raw, memRead s.snap s.engine.cur.toNat (kindWidth k) = some raw ∧ t = { s with
      engine := { s.engine with
        cur := s.engine.cur + BitVec.ofNat 8 (kindWidth k).bytes
        pend := s.engine.pend.put key (convert k raw) } } := by
  cases hm : memRead s.snap s.engine.cur.toNat (kindWidth k) with
  | none => rw [readSub_none hm] at h; cases h
  | some raw => rw [readSub_some hm] at h; cases h; exact ⟨raw, rfl, rfl⟩

theorem readSub_error {k : Kind} {key : Key} {s : State} {r : Result} (h : readSub k key s = .error r) :
    memRead s.snap s.engine.cur.toNat (kindWidth k) = none ∧
      r = .next (raiseError .truncatedBuffer s.engine.bit s.engine.cur (BitVec.ofNat 2 (kindWidth k).bytes) s) := by
  cases hm : memRead s.snap s.engine.cur.toNat (kindWidth k) with
  | none => rw [readSub_none hm] at h; cases h; exact ⟨rfl, rfl⟩
  | some raw => rw [readSub_some hm] at h; cases h

/-- A kind row whose bytes fit completes with its converted value (R112). -/
theorem runKind_fits {k : Kind} {key : Key} {s : State} {raw : Half}
    (h : memRead s.snap s.engine.cur.toNat (kindWidth k) = some raw) :
    runKind k key s = .next (afterSub (kindWidth k).bytes key (convert k raw) s) := by
  simp [runKind, readSub_some h, finish, afterSub]

/-- A kind row whose bytes do not fit raises TruncatedBuffer (R183). -/
theorem runKind_truncated {k : Kind} {key : Key} {s : State}
    (h : memRead s.snap s.engine.cur.toNat (kindWidth k) = none) :
    runKind k key s = .next (raiseError .truncatedBuffer s.engine.bit s.engine.cur
      (BitVec.ofNat 2 (kindWidth k).bytes) s) := by
  simp [runKind, readSub_none h, finish]

theorem runKind_around {k : Kind} {key : Key} {s t : State} (h : runKind k key s = .next t) : SameAround s t := by
  cases hm : memRead s.snap s.engine.cur.toNat (kindWidth k) with
  | none => rw [runKind_truncated hm] at h; cases h; exact raiseError_around _ _ _ _ s
  | some raw =>
    rw [runKind_fits hm] at h
    cases h
    refine SameAround.trans ?_ (nextSub_around _)
    exact ⟨rfl, rfl, rfl, rfl, rfl, rfl, rfl, rfl⟩

/-- One descriptor of a slot: NONE ends it, a kind reads its sub-value and the rest follows, a reserved word is refused
(R85, R88, R112). -/
theorem runSubs_cons (d : Half) (rest : List Half) (j : Nat) (s : State) :
    runSubs (d :: rest) j s =
      match decodeDescriptor d with
      | .error x => .error (.refused (.reservedEncoding x))
      | .ok i =>
        match i.sub? with
        | none => .ok s
        | some (k, key) =>
          match readSub k key { s with engine := { s.engine with sub := BitVec.ofNat 2 j } } with
          | .ok t => runSubs rest (j + 1) t
          | .error r => .error r := rfl

theorem runSubs_ok_around {descs : List Half} {j : Nat} {s t : State} (h : runSubs descs j s = .ok t) :
    SameAround s t ∧ t.out = s.out ∧ t.engine.flagN = s.engine.flagN ∧ t.engine.bit = s.engine.bit ∧
      t.engine.phase = s.engine.phase := by
  induction descs generalizing j s with
  | nil => cases h; exact ⟨SameAround.refl _, rfl, rfl, rfl, rfl⟩
  | cons d rest ih =>
    rw [runSubs_cons] at h
    split at h
    · cases h
    · split at h
      · cases h; exact ⟨SameAround.refl _, rfl, rfl, rfl, rfl⟩
      · split at h
        · rename_i hr
          obtain ⟨raw, -, rfl⟩ := readSub_ok hr
          have := ih h
          refine ⟨SameAround.trans ?_ this.1, this.2⟩
          exact ⟨rfl, rfl, rfl, rfl, rfl, rfl, rfl, rfl⟩
        · cases h

theorem runSubs_error_next {descs : List Half} {j : Nat} {s t : State} (h : runSubs descs j s = .error (.next t)) :
    SameAround s t ∧ ∃ (c : Byte) (w : Width), s.engine.cur.toNat ≤ s.snap.len.toNat → c.toNat ≤ s.snap.len.toNat ∧
      s.snap.len.toNat < c.toNat + w.bytes ∧
      t.out = { s.out with
        errCode := .truncatedBuffer, errBit := s.engine.bit, errCursor := c
        errNeed := BitVec.ofNat 2 w.bytes, state := .error } ∧
      t.engine.pend = [] ∧ t.engine.phase = .idle := by
  induction descs generalizing j s with
  | nil => cases h
  | cons d rest ih =>
    rw [runSubs_cons] at h
    split at h
    · cases h
    · split at h
      · cases h
      · split at h
        · rename_i hr
          obtain ⟨raw, hm, rfl⟩ := readSub_ok hr
          obtain ⟨ha, c, w, hw⟩ := ih h
          refine ⟨SameAround.trans (by exact ⟨rfl, rfl, rfl, rfl, rfl, rfl, rfl, rfl⟩) ha, c, w, fun _ => hw ?_⟩
          have hle := memRead_some_le hm
          have hlen := s.snap.len.isLt
          simp only [BitVec.toNat_add, BitVec.toNat_ofNat] at hle ⊢
          omega
        · rename_i hr
          obtain ⟨hm, hx⟩ := readSub_error hr
          cases h
          cases hx
          refine ⟨SameAround.trans ?_ (raiseError_around _ _ _ _ _), _, _,
            fun hc => ⟨hc, memRead_eq_none.1 hm, rfl, rfl, rfl⟩⟩
          exact ⟨rfl, rfl, rfl, rfl, rfl, rfl, rfl, rfl⟩

/-- EXEC_SLOT runs the descriptors of its slot and ends the slot (R112). -/
theorem runSlot_eq {s : State} {e k : Nat} {en : Entry} (h : s.config.entries[e]? = some en) :
    runSlot e k s =
      finish (runSubs (en.slot k).descs 0 { s with engine := { s.engine with bit := BitVec.ofNat 4 k } }) endSlot := by
  simp [runSlot, h]

theorem runSlot_around {e k : Nat} {s t : State} (h : runSlot e k s = .next t) : SameAround s t := by
  cases hen : s.config.entries[e]? with
  | none => simp [runSlot, hen] at h
  | some en =>
    rw [runSlot_eq hen] at h
    rcases finish_next h with ⟨u, hu, rfl⟩ | hx
    · refine SameAround.trans ?_ (SameAround.trans (runSubs_ok_around hu).1 (endSlot_around u))
      exact ⟨rfl, rfl, rfl, rfl, rfl, rfl, rfl, rfl⟩
    · refine SameAround.trans ?_ (runSubs_error_next hx).1
      exact ⟨rfl, rfl, rfl, rfl, rfl, rfl, rfl, rfl⟩

/-! LOOKUP (R102). -/

theorem entryMatches_iff (sn : Snapshot) (en : Entry) : entryMatches sn en = true ↔ SelectorsMatch sn en := by
  simp [entryMatches, SelectorsMatch]

theorem lookupFrom_ge {sn : Snapshot} {l : List Entry} {i e : Nat} (h : lookupFrom sn l i = some e) : i ≤ e := by
  induction l generalizing i with
  | nil => cases h
  | cons en rest ih =>
    unfold lookupFrom at h
    split at h
    · cases h; exact Nat.le_refl _
    · have := ih h; omega

/-- The index a lookup returns names an entry of the list that matches. -/
theorem lookupFrom_some {sn : Snapshot} {l : List Entry} {i e : Nat} (h : lookupFrom sn l i = some e) :
    ∃ en, l[e - i]? = some en ∧ entryMatches sn en = true := by
  induction l generalizing i with
  | nil => cases h
  | cons en rest ih =>
    unfold lookupFrom at h
    split at h
    · rename_i hm; cases h; exact ⟨en, by simp, hm⟩
    · obtain ⟨en', h1, h2⟩ := ih h
      have := lookupFrom_ge h
      refine ⟨en', ?_, h2⟩
      rw [show e - i = (e - (i + 1)) + 1 by omega, List.getElem?_cons_succ, h1]

/-! What a step performs (R66, R210, R212). -/

theorem step_accessing {r : HostReq} {rest : List HostReq} {s : State} (h : Accessing r rest s) :
    step s = access r { s with bus := rest } := by
  obtain ⟨hb, hr, hs⟩ := h
  simp [step, hostStep, hb, hr, hs]

/-- START asserted is acted on before any pending access. -/
theorem step_start {s : State} (hr : s.inReset = false) (hs : s.inputs.start = true) : step s = engineStep s := by
  simp [step, hostStep, hr, hs]

/-- With no access pending the block makes its own step. -/
theorem step_own {s : State} (hb : s.bus = []) (hr : s.inReset = false) : step s = engineStep s := by
  simp [step, hostStep, hb, hr]

theorem step_inReset {s : State} (hr : s.inReset = true) :
    step s = .refused (if s.startNext then .startInReset else .heldInReset) := by
  simp [step, hostStep, hr]

theorem step_running {p : Phase} {s : State} (h : Running p s) : step s = runFetched (fetch s) s := by
  obtain ⟨hb, hr, hs, hst, -⟩ := h
  rw [step_own hb hr]
  simp [engineStep, hst, hs]

theorem engineStep_startAccepted {s : State} (h : StartAccepted s) : engineStep s = acceptStart s := by
  obtain ⟨-, hs, hst⟩ := h
  unfold engineStep
  rw [hs]
  cases ho : s.out.state <;> first | rfl | exact absurd ho hst

/-- An accepted START is the latch and the DECODE, or its beginning (R23, R123). -/
theorem step_startAccepted {s : State} (h : StartAccepted s) : step s = acceptStart s := by
  rw [step_start h.1 h.2.1, engineStep_startAccepted h]

end Sys2Proof.Machine
end

