-- ==== Sys2Proof/Laws/PerInstr.lean ====
section
/-! SUPPORT. Laws of every instruction as syntax, one lemma per constructor. -/

/-- The word of an instruction fits the words of its table (R81, R83, R36). -/
def Sys2Proof.Laws.EncodesInWidth.Statement (i : Sys2Proof.Instr) : Prop :=
  (Sys2Proof.encode i).2 < 2 ^ (Sys2Proof.encode i).1.width

theorem Sys2Proof.Laws.EncodesInWidth.fmtP2 : Sys2Proof.Laws.EncodesInWidth.Statement .fmtP2 := by
  unfold Sys2Proof.Laws.EncodesInWidth.Statement; decide

theorem Sys2Proof.Laws.EncodesInWidth.fmtP3 : Sys2Proof.Laws.EncodesInWidth.Statement .fmtP3 := by
  unfold Sys2Proof.Laws.EncodesInWidth.Statement; decide

theorem Sys2Proof.Laws.EncodesInWidth.fmt0x11 : Sys2Proof.Laws.EncodesInWidth.Statement .fmt0x11 := by
  unfold Sys2Proof.Laws.EncodesInWidth.Statement; decide

theorem Sys2Proof.Laws.EncodesInWidth.fmt0x14 : Sys2Proof.Laws.EncodesInWidth.Statement .fmt0x14 := by
  unfold Sys2Proof.Laws.EncodesInWidth.Statement; decide

theorem Sys2Proof.Laws.EncodesInWidth.fmt0x15 : Sys2Proof.Laws.EncodesInWidth.Statement .fmt0x15 := by
  unfold Sys2Proof.Laws.EncodesInWidth.Statement; decide

theorem Sys2Proof.Laws.EncodesInWidth.normIdentity : Sys2Proof.Laws.EncodesInWidth.Statement .normIdentity := by
  unfold Sys2Proof.Laws.EncodesInWidth.Statement; decide

theorem Sys2Proof.Laws.EncodesInWidth.normIns2 : Sys2Proof.Laws.EncodesInWidth.Statement .normIns2 := by
  unfold Sys2Proof.Laws.EncodesInWidth.Statement; decide

theorem Sys2Proof.Laws.EncodesInWidth.kindNone : Sys2Proof.Laws.EncodesInWidth.Statement .kindNone := by
  unfold Sys2Proof.Laws.EncodesInWidth.Statement; decide

theorem Sys2Proof.Laws.EncodesInWidth.u8Raw (key : Sys2Proof.Key) :
    Sys2Proof.Laws.EncodesInWidth.Statement (.u8Raw key) :=
  (Sys2Proof.encodeDescriptor Sys2Proof.Kind.u8Raw.code key).isLt

theorem Sys2Proof.Laws.EncodesInWidth.s16Q12 (key : Sys2Proof.Key) :
    Sys2Proof.Laws.EncodesInWidth.Statement (.s16Q12 key) :=
  (Sys2Proof.encodeDescriptor Sys2Proof.Kind.s16Q12.code key).isLt

theorem Sys2Proof.Laws.EncodesInWidth.s16Q8 (key : Sys2Proof.Key) :
    Sys2Proof.Laws.EncodesInWidth.Statement (.s16Q8 key) :=
  (Sys2Proof.encodeDescriptor Sys2Proof.Kind.s16Q8.code key).isLt

theorem Sys2Proof.Laws.EncodesInWidth.u16Q8 (key : Sys2Proof.Key) :
    Sys2Proof.Laws.EncodesInWidth.Statement (.u16Q8 key) :=
  (Sys2Proof.encodeDescriptor Sys2Proof.Kind.u16Q8.code key).isLt

theorem Sys2Proof.Laws.EncodesInWidth.u16P4 (key : Sys2Proof.Key) :
    Sys2Proof.Laws.EncodesInWidth.Statement (.u16P4 key) :=
  (Sys2Proof.encodeDescriptor Sys2Proof.Kind.u16P4.code key).isLt

theorem Sys2Proof.Laws.EncodesInWidth.u8Pct (key : Sys2Proof.Key) :
    Sys2Proof.Laws.EncodesInWidth.Statement (.u8Pct key) :=
  (Sys2Proof.encodeDescriptor Sys2Proof.Kind.u8Pct.code key).isLt

theorem Sys2Proof.Laws.EncodesInWidth.u16Raw (key : Sys2Proof.Key) :
    Sys2Proof.Laws.EncodesInWidth.Statement (.u16Raw key) :=
  (Sys2Proof.encodeDescriptor Sys2Proof.Kind.u16Raw.code key).isLt

theorem Sys2Proof.Laws.EncodesInWidth.u16Pct (key : Sys2Proof.Key) :
    Sys2Proof.Laws.EncodesInWidth.Statement (.u16Pct key) :=
  (Sys2Proof.encodeDescriptor Sys2Proof.Kind.u16Pct.code key).isLt

theorem Sys2Proof.Laws.EncodesInWidth.fp16Eng (key : Sys2Proof.Key) :
    Sys2Proof.Laws.EncodesInWidth.Statement (.fp16Eng key) :=
  (Sys2Proof.encodeDescriptor Sys2Proof.Kind.fp16Eng.code key).isLt

theorem Sys2Proof.Laws.EncodesInWidth.f14VBat : Sys2Proof.Laws.EncodesInWidth.Statement .f14VBat := by
  unfold Sys2Proof.Laws.EncodesInWidth.Statement; decide

theorem Sys2Proof.Laws.EncodesInWidth.f14Boot : Sys2Proof.Laws.EncodesInWidth.Statement .f14Boot := by
  unfold Sys2Proof.Laws.EncodesInWidth.Statement; decide

theorem Sys2Proof.Laws.EncodesInWidth.f15VBat : Sys2Proof.Laws.EncodesInWidth.Statement .f15VBat := by
  unfold Sys2Proof.Laws.EncodesInWidth.Statement; decide

theorem Sys2Proof.Laws.EncodesInWidth.f15Boot : Sys2Proof.Laws.EncodesInWidth.Statement .f15Boot := by
  unfold Sys2Proof.Laws.EncodesInWidth.Statement; decide

theorem Sys2Proof.Laws.EncodesInWidth.f15Env : Sys2Proof.Laws.EncodesInWidth.Statement .f15Env := by
  unfold Sys2Proof.Laws.EncodesInWidth.Statement; decide

theorem Sys2Proof.Laws.EncodesInWidth.f15Lux : Sys2Proof.Laws.EncodesInWidth.Statement .f15Lux := by
  unfold Sys2Proof.Laws.EncodesInWidth.Statement; decide

theorem Sys2Proof.Laws.EncodesInWidth.f15TWater : Sys2Proof.Laws.EncodesInWidth.Statement .f15TWater := by
  unfold Sys2Proof.Laws.EncodesInWidth.Statement; decide

theorem Sys2Proof.Laws.EncodesInWidth.f15Soil : Sys2Proof.Laws.EncodesInWidth.Statement .f15Soil := by
  unfold Sys2Proof.Laws.EncodesInWidth.Statement; decide
end

