-- ==== Sys2Proof/Tests/Slice0.lean ====
section
/-! SUPPORT. Tests, with expected results from spec/, and a witness for the hypotheses of every statement. -/

-- one theorem at a time: each thread waiting on a theorem would reserve a stack of its own
set_option Elab.async false

namespace Sys2Proof.Machine

/-! Helpers. -/

/-- The registry TREG (42_registry.md R177): REF and three test entries, in the notation of R96. Its `META`, which the
spec gives no values, is uninterpreted as REF's is (log 7). -/
def treg : Configuration :=
  { entries := refEntries .s16Q8 ++
      [buildEntry none (some 7) 0 fun k =>
          match k with
          | 0 => [(0x0A, .fp16Eng)]
          | 1 => [(0x0B, .u16Pct)]
          | 2 => [(0x0C, .u16Q8)]
          | 3 => [(0x0D, .u16Raw)]
          | _ => [],
        { entry0x15 .s16Q8 with header := buildHeader (some 0x12) none 1 },
        buildEntry (some 0x20) (some 9) 0 fun k =>
          match k with
          | 0 => [(0x01, .s16Q12)]
          | _ => []]
    keyName := refKeyName ++ [(0x0A, "pwr"), (0x0B, "rh16"), (0x0C, "tq"), (0x0D, "cnt")]
    metas := (refConfig .s16Q8).metas ++ [Config.refMeta 5, Config.refMeta 6, Config.refMeta 7] }

/-- The outcome is a next state. -/
def isNext (r : Result) : Bool :=
  match r with
  | .next _ => true
  | .fault _ => false
  | .refused _ => false

/-- The next state of an outcome that has one. -/
def nextOf (r : Result) : State :=
  match r with
  | .next s => s
  | .fault _ => State.reset
  | .refused _ => State.reset

theorem eq_next_of_isNext {r : Result} (h : isNext r = true) : r = .next (nextOf r) := by
  cases r with
  | next s => rfl
  | fault x => cases h
  | refused x => cases h

/-- The snapshot of a message of at most 255 bytes. -/
def message (bytes : List Byte) (port : Option Byte) : Snapshot := (snapshotOf bytes port).getD Snapshot.reset

/-- A block between DECODEs, with a message presented and START asserted. -/
def started (c : Configuration) (bytes : List Byte) (port : Option Byte) : State :=
  nextOf (presentMessage bytes port { State.reset with config := c })

/-- A block inside a DECODE, at a phase with an entry selected, on a snapshot. -/
def inDecode (c : Configuration) (bytes : List Byte) (p : Phase) (e : Byte) : State :=
  { State.reset with
    config := c
    snap := message bytes none
    engine := { Engine.reset with phase := p }
    out := { Outputs.reset with state := .busy, fmtIndex := e } }

/-- What a test looks at in a finished DECODE: the outputs of the next state. -/
def outOf (r : Result) : Outputs := (nextOf r).out

/-! Well-formedness: key 0 is refused in every kind row (R92), everything else accepted. -/

theorem test_wellFormed_u8Raw : (Instr.u8Raw 0x00#8).WellFormed = false ∧ (Instr.u8Raw 0xFF#8).WellFormed = true :=
  by decide

theorem test_wellFormed_s16Q12 : (Instr.s16Q12 0x00#8).WellFormed = false ∧ (Instr.s16Q12 0xFF#8).WellFormed = true :=
  by decide

theorem test_wellFormed_s16Q8 : (Instr.s16Q8 0x00#8).WellFormed = false ∧ (Instr.s16Q8 0xFF#8).WellFormed = true :=
  by decide

theorem test_wellFormed_u16Q8 : (Instr.u16Q8 0x00#8).WellFormed = false ∧ (Instr.u16Q8 0xFF#8).WellFormed = true :=
  by decide

theorem test_wellFormed_u16P4 : (Instr.u16P4 0x00#8).WellFormed = false ∧ (Instr.u16P4 0xFF#8).WellFormed = true :=
  by decide

theorem test_wellFormed_u8Pct : (Instr.u8Pct 0x00#8).WellFormed = false ∧ (Instr.u8Pct 0xFF#8).WellFormed = true :=
  by decide

theorem test_wellFormed_u16Raw : (Instr.u16Raw 0x00#8).WellFormed = false ∧ (Instr.u16Raw 0xFF#8).WellFormed = true :=
  by decide

theorem test_wellFormed_u16Pct : (Instr.u16Pct 0x00#8).WellFormed = false ∧ (Instr.u16Pct 0xFF#8).WellFormed = true :=
  by decide

theorem test_wellFormed_fp16Eng :
    (Instr.fp16Eng 0x00#8).WellFormed = false ∧ (Instr.fp16Eng 0xFF#8).WellFormed = true :=
  by decide

theorem test_wellFormed_rows :
    Instr.fmtP2.WellFormed = true ∧ Instr.normIns2.WellFormed = true ∧ Instr.kindNone.WellFormed = true ∧
    Instr.f15Soil.WellFormed = true := by decide

/-! The load checks (R160): REF and TREG pass, and one registry for each check fails it. -/

/-- A registry of one entry under the names of TREG. -/
def oneEntry (en : Entry) : Configuration := { treg with entries := [en] }

/-- An entry keyed by byte 0x55 with one slot. -/
def oneSlot (sl : Slot) : Entry := { Entry.bare 0x00000155#32 with slot0 := sl }

theorem test_load_ref : (refConfig .s16Q8).wellFormed = true ∧ (refConfig .u16Q8).wellFormed = true := by decide

theorem test_load_treg : treg.wellFormed = true := by decide

/-- V71: 17 entries. -/
theorem test_load_W1 :
    ({ treg with entries := List.replicate 17 (oneSlot Slot.unassigned) } : Configuration).checkW1 = false :=
  by decide

/-- Reserved header bits and NORM 10. -/
theorem test_load_W2 :
    (oneEntry (Entry.bare 0x00001155#32)).wellFormed = false ∧
    (oneEntry (Entry.bare 0x01000155#32)).wellFormed = false ∧
    (oneEntry (Entry.bare 0x00000955#32)).wellFormed = false := by decide

/-- V73: no selector. -/
theorem test_load_W3 : (oneEntry (Entry.bare 0x00000000#32)).wellFormed = false := by decide

/-- A value under a selector that is off. -/
theorem test_load_W4 :
    (oneEntry (Entry.bare 0x00010155#32)).wellFormed = false ∧
    (oneEntry (Entry.bare 0x00020255#32)).wellFormed = false :=
  by decide

/-- Two entries with the same selectors. -/
theorem test_load_W5 :
    ({ treg with entries := [entry0x14, entry0x15 .s16Q8, { entry0x14 with header := 0x00000514#32 }] } :
    Configuration).wellFormed = false := by decide

/-- V72: KIND 0xA; and key 0 with a kind, a reserved bit, NONE with a key. -/
theorem test_load_W6 :
    (oneEntry (oneSlot (Slot.one 0x000A#16))).wellFormed = false ∧
    (oneEntry (oneSlot (Slot.one 0x0001#16))).wellFormed = false ∧
    (oneEntry (oneSlot (Slot.one 0x1012#16))).wellFormed = false ∧
    (oneEntry (oneSlot (Slot.one 0x0010#16))).wellFormed = false :=
  by decide

/-- A gap before a descriptor. -/
theorem test_load_W7 : (oneEntry (oneSlot { d0 := 0x0000#16, d1 := 0x0012#16, d2 := 0x0000#16 })).wellFormed = false ∧
    (oneEntry (oneSlot { d0 := 0x0012#16, d1 := 0x0000#16, d2 := 0x0021#16 })).wellFormed = false := by decide

/-- V74: key 0x03 twice. -/
theorem test_load_W8 :
    (oneEntry (oneSlot { d0 := 0x0033#16, d1 := 0x0034#16, d2 := 0x0000#16 })).wellFormed = false :=
  by decide

/-- A key without a name. -/
theorem test_load_W9 : (oneEntry (oneSlot (Slot.one 0x0EE1#16))).wellFormed = false := by decide

/-- An entry without metadata. -/
theorem test_load_W10 : ({ treg with metas := [] } : Configuration).wellFormed = false := by decide

/-! Decoding: one word of every row, written out from the field layouts (R81, R83, R84, R162 to R173). -/

theorem test_decode_ports :
    decode .port 2 = .ok .fmtP2 ∧ decode .port 3 = .ok .fmtP3 ∧ decode .port 4 = .error .unknownFormat :=
  by decide

theorem test_decode_bytes :
    decode .byte 0x11 = .ok .fmt0x11 ∧ decode .byte 0x14 = .ok .fmt0x14 ∧ decode .byte 0x15 = .ok .fmt0x15 ∧
    decode .byte 0x99 = .error .unknownFormat := by decide

/-- `0000 0000 | PORT_VAL | 0000 | NORM | PORT_EN | BYTE_EN | BYTE_VAL` (R81). -/
theorem test_decode_headers : decode .header 0b00000000000000100000001000000000 = .ok .normIdentity ∧
    decode .header 0b00000000000000000000010100010010 = .ok .normIns2 ∧
    decode .header 0b00000000000000000000100100010010 = .error .reservedNorm ∧
    decode .header 0b00000000000000000001000100010010 = .error .reservedHeaderBits := by decide

theorem test_decode_none : decode .descriptor 0 = .ok .kindNone ∧ decode .descriptor 0x0010 = .error .keyOnNone :=
  by decide

/-- `0000 | KEY | KIND` (R83). -/
theorem test_decode_u8Raw : decode .descriptor 0b0000_10100101_0001 = .ok (.u8Raw 0xA5#8) := by decide

theorem test_decode_s16Q12 : decode .descriptor 0b0000_10100101_0010 = .ok (.s16Q12 0xA5#8) := by decide

theorem test_decode_s16Q8 : decode .descriptor 0b0000_10100101_0011 = .ok (.s16Q8 0xA5#8) := by decide

theorem test_decode_u16Q8 : decode .descriptor 0b0000_10100101_0100 = .ok (.u16Q8 0xA5#8) := by decide

theorem test_decode_u16P4 : decode .descriptor 0b0000_10100101_0101 = .ok (.u16P4 0xA5#8) := by decide

theorem test_decode_u8Pct : decode .descriptor 0b0000_10100101_0110 = .ok (.u8Pct 0xA5#8) := by decide

theorem test_decode_u16Raw : decode .descriptor 0b0000_10100101_0111 = .ok (.u16Raw 0xA5#8) := by decide

theorem test_decode_u16Pct : decode .descriptor 0b0000_10100101_1000 = .ok (.u16Pct 0xA5#8) := by decide

theorem test_decode_fp16Eng : decode .descriptor 0b0000_10100101_1001 = .ok (.fp16Eng 0xA5#8) := by decide

theorem test_decode_reserved : decode .descriptor 0b0000_10100101_1010 = .error .reservedKind ∧
    decode .descriptor 0b0000_10100101_1111 = .error .reservedKind ∧
    decode .descriptor 0b1000_10100101_0001 = .error .reservedDescriptorBits ∧
    decode .descriptor 0x10012 = .error .wordTooWide :=
  by decide

theorem test_decode_flags14 :
    decode .flags14 0b000000001 = .ok .f14VBat ∧ decode .flags14 0b000000100 = .ok .f14Boot ∧
    decode .flags14 0b000000010 = .error .unassignedFlag := by decide

theorem test_decode_flags15 :
    decode .flags15 0b000000001 = .ok .f15VBat ∧ decode .flags15 0b000000100 = .ok .f15Boot ∧
    decode .flags15 0b000001000 = .ok .f15Env ∧ decode .flags15 0b000010000 = .ok .f15Lux ∧
    decode .flags15 0b000100000 = .ok .f15TWater ∧ decode .flags15 0b001000000 = .ok .f15Soil ∧
    decode .flags15 0b010000000 = .error .unassignedFlag := by decide

/-- The header words the spec writes for P2, 0x15 and TREG's entries (R162, R166, R174). -/
theorem test_buildHeader :
    buildHeader none (some 2) 0 = 0x00020200#32 ∧ buildHeader (some 0x15) none 0 = 0x00000115#32 ∧
    buildHeader (some 0x12) none 1 = 0x00000512#32 ∧ buildHeader (some 0x20) (some 9) 0 = 0x00090320#32 := by decide

/-! A word placed where it is fetched runs as the next step. -/

theorem test_fetch_descriptor : decodeTableWord 16 0x0029 = some (.fp16Eng 2#8) ∧
    fetch (State.reset.withFetchWord 16 0x0029) = .instr (.fp16Eng 2#8) ∧
    isNext (step (State.reset.withFetchWord 16 0x0029)) = true := by decide +kernel

theorem test_fetch_slot :
    decodeTableWord 9 0x040 = some .f15Soil ∧ fetch (State.reset.withFetchWord 9 0x040) = .instr .f15Soil ∧
    isNext (step (State.reset.withFetchWord 9 0x040)) = true := by decide +kernel

theorem test_fetch_format :
    decodeTableWord 8 0x14 = some .fmt0x14 ∧ fetch (State.reset.withFetchWord 8 0x14) = .instr .fmt0x14 ∧
    decodeTableWord 8 3 = some .fmtP3 ∧ fetch (State.reset.withFetchWord 8 3) = .instr .fmtP3 := by decide +kernel

theorem test_fetch_header :
    decodeTableWord 16 0x0400 = some .normIns2 ∧ fetch (State.reset.withFetchWord 16 0x0400) = .instr .normIns2 ∧
    isNext (step (State.reset.withFetchWord 16 0x0400)) = true := by decide +kernel

/-! One step of each row. -/

/-- R162, R104. -/
theorem test_fmtP2 :
    (nextOf (exec .fmtP2 State.reset)).out.fmtIndex = 0#8 ∧ (nextOf (exec .fmtP2 State.reset)).engine.cur = 0#8 :=
  by decide

/-- R163, R104. -/
theorem test_fmtP3 :
    (nextOf (exec .fmtP3 State.reset)).out.fmtIndex = 1#8 ∧ (nextOf (exec .fmtP3 State.reset)).engine.cur = 0#8 :=
  by decide

/-- R164, R104. -/
theorem test_fmt0x11 :
    (nextOf (exec .fmt0x11 State.reset)).out.fmtIndex = 2#8 ∧ (nextOf (exec .fmt0x11 State.reset)).engine.cur = 1#8 :=
  by decide

/-- R165, R104. -/
theorem test_fmt0x14 :
    (nextOf (exec .fmt0x14 State.reset)).out.fmtIndex = 3#8 ∧ (nextOf (exec .fmt0x14 State.reset)).engine.cur = 1#8 :=
  by decide

/-- R166, R104. -/
theorem test_fmt0x15 :
    (nextOf (exec .fmt0x15 State.reset)).out.fmtIndex = 4#8 ∧ (nextOf (exec .fmt0x15 State.reset)).engine.cur = 1#8 :=
  by decide

/-- R106. -/
theorem test_normIdentity : normIdentity 0xA5#8 = 0x0A5#9 := by decide

/-- R107 on the flag bytes of W8a, V25, V23 and V24. -/
theorem test_normIns2 :
    insertZeroAt2 0x0D#8 = 0x019#9 ∧ insertZeroAt2 0x83#8 = 0x103#9 ∧ insertZeroAt2 0x05#8 = 0x009#9 ∧
    insertZeroAt2 0x80#8 = 0x100#9 := by decide

/-- The raw bytes at the cursor of a slot in progress at descriptor 0. -/
def atField (bytes : List Byte) : State := inDecode (refConfig .s16Q8) bytes .sub 4#8

/-- R85. -/
theorem test_kindNone : (nextOf (exec .kindNone (atField [0x12]))).engine =
    { Engine.reset with bit := 1#4, phase := .walk } := by decide

/-- U8_RAW: the vector table of R132. -/
theorem test_u8Raw : (nextOf (exec (.u8Raw 7#8) (atField [0x80, 0x99]))).engine =
    { Engine.reset with cur := 1#8, sub := 1#2, pend := [(7, 0x4060000000000000#64)], phase := .sub } := by decide

theorem test_u8Raw_short : (outOf (exec (.u8Raw 7#8) (atField []))).errNeed = 1#2 ∧
    (outOf (exec (.u8Raw 7#8) (atField []))).errCode = .truncatedBuffer := by decide

/-- S16_Q12: the vector table of R133. -/
theorem test_s16Q12 : (nextOf (exec (.s16Q12 7#8) (atField [0xF8, 0x00, 0x99]))).engine =
    { Engine.reset with cur := 2#8, sub := 1#2, pend := [(7, 0xBFE0000000000000#64)], phase := .sub } := by decide

theorem test_s16Q12_short : (outOf (exec (.s16Q12 7#8) (atField [0x99]))).errNeed = 2#2 ∧
    (outOf (exec (.s16Q12 7#8) (atField [0x99]))).errCode = .truncatedBuffer := by decide

/-- S16_Q8: the vector table of R134. -/
theorem test_s16Q8 : (nextOf (exec (.s16Q8 7#8) (atField [0xFF, 0x00, 0x99]))).engine =
    { Engine.reset with cur := 2#8, sub := 1#2, pend := [(7, 0xBFF0000000000000#64)], phase := .sub } := by decide

theorem test_s16Q8_short : (outOf (exec (.s16Q8 7#8) (atField [0x99]))).errNeed = 2#2 ∧
    (outOf (exec (.s16Q8 7#8) (atField [0x99]))).errCode = .truncatedBuffer := by decide

/-- U16_Q8: the vector table of R135. -/
theorem test_u16Q8 : (nextOf (exec (.u16Q8 7#8) (atField [0xFF, 0x00, 0x99]))).engine =
    { Engine.reset with cur := 2#8, sub := 1#2, pend := [(7, 0x406FE00000000000#64)], phase := .sub } := by decide

theorem test_u16Q8_short : (outOf (exec (.u16Q8 7#8) (atField [0x99]))).errNeed = 2#2 ∧
    (outOf (exec (.u16Q8 7#8) (atField [0x99]))).errCode = .truncatedBuffer := by decide

/-- U16_P4: the vector table of R136. -/
theorem test_u16P4 : (nextOf (exec (.u16P4 7#8) (atField [0xFF, 0xFF, 0x99]))).engine =
    { Engine.reset with cur := 2#8, sub := 1#2, pend := [(7, 0x40A47ACCCCCCCCCD#64)], phase := .sub } := by decide

theorem test_u16P4_short : (outOf (exec (.u16P4 7#8) (atField [0x99]))).errNeed = 2#2 ∧
    (outOf (exec (.u16P4 7#8) (atField [0x99]))).errCode = .truncatedBuffer := by decide

/-- U8_PCT: the vector table of R137. -/
theorem test_u8Pct : (nextOf (exec (.u8Pct 7#8) (atField [0xC3, 0x99]))).engine =
    { Engine.reset with cur := 1#8, sub := 1#2, pend := [(7, 0x40530B0000000000#64)], phase := .sub } := by decide

theorem test_u8Pct_short : (outOf (exec (.u8Pct 7#8) (atField []))).errNeed = 1#2 ∧
    (outOf (exec (.u8Pct 7#8) (atField []))).errCode = .truncatedBuffer := by decide

/-- U16_RAW: the vector table of R138. -/
theorem test_u16Raw : (nextOf (exec (.u16Raw 7#8) (atField [0x12, 0x34, 0x99]))).engine =
    { Engine.reset with cur := 2#8, sub := 1#2, pend := [(7, 0x40B2340000000000#64)], phase := .sub } := by decide

theorem test_u16Raw_short : (outOf (exec (.u16Raw 7#8) (atField [0x99]))).errNeed = 2#2 ∧
    (outOf (exec (.u16Raw 7#8) (atField [0x99]))).errCode = .truncatedBuffer := by decide

/-- U16_PCT: the vector table of R139. -/
theorem test_u16Pct : (nextOf (exec (.u16Pct 7#8) (atField [0x00, 0x21, 0x99]))).engine =
    { Engine.reset with cur := 2#8, sub := 1#2, pend := [(7, 0x3FA9C819C819C81B#64)], phase := .sub } := by decide

theorem test_u16Pct_short : (outOf (exec (.u16Pct 7#8) (atField [0x99]))).errNeed = 2#2 ∧
    (outOf (exec (.u16Pct 7#8) (atField [0x99]))).errCode = .truncatedBuffer := by decide

/-- FP16_ENG: the vector table of R140. -/
theorem test_fp16Eng : (nextOf (exec (.fp16Eng 7#8) (atField [0x71, 0x23, 0x99]))).engine =
    { Engine.reset with cur := 2#8, sub := 1#2, pend := [(7, 0x400FF86000000000#64)], phase := .sub } :=
  by decide +kernel

theorem test_fp16Eng_short : (outOf (exec (.fp16Eng 7#8) (atField [0x99]))).errNeed = 2#2 ∧
    (outOf (exec (.fp16Eng 7#8) (atField [0x99]))).errCode = .truncatedBuffer := by decide

/-- W1. -/
theorem test_f14VBat : (nextOf (exec .f14VBat (atField [0x18, 0x00]))).engine.pend =
      [(1, 0x3FF8000000000000#64)] ∧
    (nextOf (exec .f14VBat (atField [0x18, 0x00]))).engine.cur = 2#8 ∧
    (nextOf (exec .f14VBat (atField [0x18, 0x00]))).engine.bit = 1#4 := by decide

/-- V46. -/
theorem test_f14Boot : (nextOf (exec .f14Boot (atField [0x42]))).engine.pend =
      [(2, 0x4050800000000000#64)] ∧
    (nextOf (exec .f14Boot (atField [0x42]))).engine.cur = 1#8 ∧
    (nextOf (exec .f14Boot (atField [0x42]))).engine.bit = 3#4 := by decide

/-- V48. -/
theorem test_f15VBat : (nextOf (exec .f15VBat (atField [0x80, 0x00]))).engine.pend =
      [(1, 0xC020000000000000#64)] ∧
    (nextOf (exec .f15VBat (atField [0x80, 0x00]))).engine.cur = 2#8 ∧
    (nextOf (exec .f15VBat (atField [0x80, 0x00]))).engine.bit = 1#4 := by decide

/-- V50. -/
theorem test_f15Boot : (nextOf (exec .f15Boot (atField [0xFF]))).engine.pend =
      [(2, 0x406FE00000000000#64)] ∧
    (nextOf (exec .f15Boot (atField [0xFF]))).engine.cur = 1#8 ∧
    (nextOf (exec .f15Boot (atField [0xFF]))).engine.bit = 3#4 := by decide

/-- W4. -/
theorem test_f15Env : (nextOf (exec .f15Env (atField [0x15, 0x9D, 0x5F, 0xCD, 0xC3]))).engine.pend =
      [(3, 0x40359D0000000000#64), (4, 0x408EA80000000000#64), (5, 0x40530B0000000000#64)] ∧
    (nextOf (exec .f15Env (atField [0x15, 0x9D, 0x5F, 0xCD, 0xC3]))).engine.cur = 5#8 ∧
    (nextOf (exec .f15Env (atField [0x15, 0x9D, 0x5F, 0xCD, 0xC3]))).engine.bit = 4#4 := by decide

/-- V49. -/
theorem test_f15Lux : (nextOf (exec .f15Lux (atField [0xFF, 0xFF]))).engine.pend =
      [(6, 0x40EFFFE000000000#64)] ∧
    (nextOf (exec .f15Lux (atField [0xFF, 0xFF]))).engine.cur = 2#8 ∧
    (nextOf (exec .f15Lux (atField [0xFF, 0xFF]))).engine.bit = 5#4 := by decide

/-- V47. -/
theorem test_f15TWater : (nextOf (exec .f15TWater (atField [0xFF, 0x00]))).engine.pend =
      [(7, 0xBFF0000000000000#64)] ∧
    (nextOf (exec .f15TWater (atField [0xFF, 0x00]))).engine.cur = 2#8 ∧
    (nextOf (exec .f15TWater (atField [0xFF, 0x00]))).engine.bit = 6#4 := by decide

/-- V51. -/
theorem test_f15Soil : (nextOf (exec .f15Soil (atField [0xFF, 0x00, 0x80]))).engine.pend =
      [(8, 0xBFF0000000000000#64), (9, 0x4049000000000000#64)] ∧
    (nextOf (exec .f15Soil (atField [0xFF, 0x00, 0x80]))).engine.cur = 3#8 ∧
    (nextOf (exec .f15Soil (atField [0xFF, 0x00, 0x80]))).engine.bit = 7#4 := by decide

/-- V52: `SOIL_T_KIND_0x15 = U16_Q8`. -/
theorem test_f15Soil_quirk :
    (nextOf (exec .f15Soil { atField [0xFF, 0x00, 0x80] with config := refConfig .u16Q8 })).engine.pend =
    [(8, 0x406FE00000000000#64), (9, 0x4049000000000000#64)] := by decide

/-- V41: ENV fails at its second sub-value. -/
theorem test_f15Env_short : (outOf (exec .f15Env { atField [0x15, 0x08, 0x15, 0x9D, 0x5F] with
      engine := { Engine.reset with cur := 2#8, phase := .slot } })).errBit = 3#4 ∧
    (outOf (exec .f15Env { atField [0x15, 0x08, 0x15, 0x9D, 0x5F] with
      engine := { Engine.reset with cur := 2#8, phase := .slot } })).errCursor = 4#8 := by decide

/-! Messages of 95_test_vectors.md, each one step of the atomic reference. -/

theorem test_message_W4 : outOf (step (started (refConfig .s16Q8) [
      0x15, 0x7D, 0x44, 0x60, 0x0D, 0x15, 0x9D, 0x5F, 0xCD, 0xC3, 0x00, 0x00, 0x1C, 0x11, 0x14, 0x46, 0xE4] none)) =
    { Outputs.reset with
      state := .done, fv := true, mv := true, fmtIndex := 0x04#8, flagsRaw := 0x7D#8, flagsNorm := 0x07D#9,
      consumed := 17#8
      res := [(1, 0x4011180000000000#64), (2, 0x402A000000000000#64), (3, 0x40359D0000000000#64),
        (4, 0x408EA80000000000#64), (5, 0x40530B0000000000#64), (6, 0x0000000000000000#64), (7, 0x403C110000000000#64),
      (8, 0x4034460000000000#64), (9, 0x4056440000000000#64)] } := by decide +kernel

theorem test_message_W8a : outOf (step (started treg [
      0x12, 0x0D, 0x18, 0x00, 0x19, 0x00, 0x61, 0xA8, 0x80, 0x01, 0x00] none)) =
    { Outputs.reset with
      state := .done, fv := true, mv := true, fmtIndex := 0x06#8, flagsRaw := 0x0D#8, flagsNorm := 0x019#9,
      consumed := 11#8
      res := [(1, 0x3FF8000000000000#64), (3, 0x4039000000000000#64), (4, 0x408F400000000000#64),
        (5, 0x4049000000000000#64), (6, 0x4070000000000000#64)] } := by decide +kernel

theorem test_message_V2 : outOf (step (started (refConfig .s16Q8) [] none)) =
    { Outputs.reset with
      state := .error, errCode := .unknownFormat, fmtIndex := 0xFF#8, flagsRaw := 0x00#8, flagsNorm := 0x000#9 } :=
  by decide +kernel

theorem test_message_V3 : outOf (step (started (refConfig .s16Q8) [] (some 2))) =
    { Outputs.reset with
      state := .error, errCode := .truncatedBuffer, errNeed := 1#2, fmtIndex := 0x00#8, flagsRaw := 0x00#8,
      flagsNorm := 0x000#9 } := by decide +kernel

theorem test_message_V7 : outOf (step ({ started (refConfig .s16Q8) [0x14, 0x01, 0x18, 0x00] none with
      inputs := { (started (refConfig .s16Q8) [0x14, 0x01, 0x18, 0x00] none).inputs with port := 2#8 } })) =
    { Outputs.reset with
      state := .done, fv := true, mv := true, fmtIndex := 0x03#8, flagsRaw := 0x01#8, flagsNorm := 0x001#9,
      consumed := 4#8
      res := [(1, 0x3FF8000000000000#64)] } := by decide +kernel

theorem test_message_V8 : outOf (step (started (refConfig .s16Q8) [0x15, 0x01, 0x18, 0x00] (some 3))) =
    { Outputs.reset with
      state := .error, fv := true, errCode := .unassignedFlag, errBit := 0x0#4, errCursor := 1#8,
      fmtIndex := 0x01#8, flagsRaw := 0x15#8, flagsNorm := 0x015#9 } := by decide +kernel

theorem test_message_V9 : outOf (step (started treg [0x20, 0x01, 0x18, 0x00] (some 9))) =
    { Outputs.reset with
      state := .done, fv := true, mv := true, fmtIndex := 0x07#8, flagsRaw := 0x01#8, flagsNorm := 0x001#9,
      consumed := 4#8
      res := [(1, 0x3FF8000000000000#64)] } := by decide +kernel

theorem test_message_V11 : outOf (step (started treg [0x20, 0x01, 0x18, 0x00] (some 8))) =
    { Outputs.reset with
      state := .error, errCode := .unknownFormat, fmtIndex := 0xFF#8, flagsRaw := 0x00#8, flagsNorm := 0x000#9 } :=
  by decide +kernel

theorem test_message_V25 : outOf (step (started treg [0x12, 0x83, 0x18, 0x00, 0x42] none)) =
    { Outputs.reset with
      state := .error, fv := true, errCode := .unassignedFlag, errBit := 0x1#4, errCursor := 2#8,
      fmtIndex := 0x06#8, flagsRaw := 0x83#8, flagsNorm := 0x103#9 } := by decide +kernel

theorem test_message_V27 : outOf (step (started (refConfig .s16Q8) [0x15, 0x81] none)) =
    { Outputs.reset with
      state := .error, fv := true, errCode := .unassignedFlag, errBit := 0x7#4, errCursor := 2#8,
      fmtIndex := 0x04#8, flagsRaw := 0x81#8, flagsNorm := 0x081#9 } := by decide +kernel

theorem test_message_V44 : outOf (step (started (refConfig .s16Q8) [
      0x15, 0x7D, 0x44, 0x60, 0x0D, 0x15, 0x9D, 0x5F, 0xCD, 0xC3, 0x00, 0x00, 0x1C, 0x11, 0x14, 0x46] none)) =
    { Outputs.reset with
      state := .error, fv := true, errCode := .truncatedBuffer, errBit := 0x6#4, errCursor := 16#8, errNeed := 1#2,
      fmtIndex := 0x04#8, flagsRaw := 0x7D#8, flagsNorm := 0x07D#9 } := by decide +kernel

theorem test_message_V45 : outOf (step (started (refConfig .s16Q8) [0x14, 0x01, 0x18, 0x00, 0xEE] none)) =
    { Outputs.reset with
      state := .done, fv := true, mv := true, fmtIndex := 0x03#8, flagsRaw := 0x01#8, flagsNorm := 0x001#9,
      consumed := 4#8
      res := [(1, 0x3FF8000000000000#64)] } := by decide +kernel

theorem test_message_V61 : outOf (step (started treg [0x0F, 0x18, 0x00, 0x7F, 0xFF, 0x80, 0x00] (some 7))) =
    { Outputs.reset with
      state := .error, fv := true, errCode := .truncatedBuffer, errBit := 0x3#4, errCursor := 7#8, errNeed := 2#2,
      fmtIndex := 0x05#8, flagsRaw := 0x0F#8, flagsNorm := 0x00F#9 } := by decide +kernel

/-- V75: W1, then V1: nothing of the first DECODE is left. -/
theorem test_message_V75 : outOf (step (nextOf (presentMessage [0x99, 0x00] none
      (nextOf (step (started (refConfig .s16Q8) [0x14, 0x01, 0x18, 0x00] none)))))) =
    { Outputs.reset with state := .error, errCode := .unknownFormat } := by decide +kernel

/-- A message of format 0x14 presented to a block between DECODEs, START asserted. -/
def ready : State := started (refConfig .s16Q8) [0x14, 0x01, 0x18, 0x00] none

/-! Witnesses: for every statement with hypotheses, a concrete state and operands that meet all of them together, clause
by clause where it has several. -/

theorem witness_DecodeEncodeRoundTrip :
    (Instr.fp16Eng 0xFF#8).WellFormed = true ∧ Instr.f15Env.WellFormed = true := by
  decide

theorem witness_DescriptorDecodingLosesNoBit :
    decodeDescriptor 0x0FF9#16 = .ok (.fp16Eng 0xFF#8) ∧ decodeDescriptor 0x0000#16 = .ok .kindNone := by decide

theorem witness_DescriptorAcceptedExactlyWhenLegal_at_its_bounds :
    decode .descriptor 0x0FF9 = .ok (.fp16Eng 0xFF#8) ∧ decode .descriptor 0x0FFA = .error .reservedKind ∧
    decode .descriptor 0x1FF9 = .error .reservedDescriptorBits ∧ decode .descriptor 0x0FF0 = .error .keyOnNone := by
  decide

theorem test_load_refused (c : Configuration) (h : c.wellFormed = false) :
    step { State.reset with bus := [.reset c] } = .refused .registryRefused := by
  simp [step, hostStep, access, doReset, State.reset, Inputs.undriven, h]

theorem test_load_refused_V73 :
    step { State.reset with bus := [.reset (oneEntry (Entry.bare 0x00000000#32))] } = .refused .registryRefused := rfl

/-- START latches at once: a write of byte 1 that follows it is not seen by its DECODE (R66, R217), and a read that
follows it sees the DECODE's outputs (R215). -/
theorem test_start_before_later_accesses :
    (outOf (runSteps 2 { ready with
      inputs := { ready.inputs with start := false }, bus := [.start, .writeMsg 1#8 0x05#8, .idle] })).flagsRaw = 0x01#8 ∧
    (match runSteps 2 { ready with
        inputs := { ready.inputs with start := false }, bus := [.start, .read .status] } with
      | .next t => decide (t.hostData = .word 0x0E#64)
      | .fault _ => false
      | .refused _ => false) = true := by decide +kernel

/-- A second START access is a second START: refused while the first one's DECODE is BUSY (R216). -/
theorem test_second_start_while_busy :
    (match runSteps 2 { ready with
        impl := .readwise, inputs := { ready.inputs with start := false }, bus := [.start, .start] } with
      | .refused .startWhileBusy => true
      | _ => false) = true := by decide +kernel

theorem treg_descriptors : (treg.entries.all fun en => en.descs.all fun d =>
    decide ((d.toNat / 2 ^ 12 = 0 ∧ d.toNat % 16 ≤ 9 ∧ (d.toNat / 16 % 2 ^ 8 = 0 ↔ d.toNat % 16 = 0)) ∧
      (d.toNat % 16 ≠ 0 → d.toNat / 16 % 2 ^ 8 ∈ treg.keyName.map Prod.fst))) = true := by decide +kernel

theorem witness_RegistryLoaded_passing : RegistryOk treg := by
  have h := fun en hen d hd =>
    of_decide_eq_true (List.all_eq_true.1 (List.all_eq_true.1 treg_descriptors en hen) d hd)
  exact ⟨by decide +kernel, by decide +kernel, by decide +kernel, by decide +kernel, by decide +kernel,
    fun en hen d hd => (h en hen d hd).1, by decide +kernel, by decide +kernel,
    fun en hen d hd => (h en hen d hd).2, by decide +kernel⟩

theorem witness_RegistryLoaded_failing : ¬ RegistryOk (oneEntry (Entry.bare 0x00000000#32)) := fun h =>
  absurd (h.2.2.1 _ (List.mem_singleton.2 rfl)) (by decide)

theorem witness_RegistryLoaded_state (c : Configuration) : Accessing (.reset c) [] { State.reset with bus := [.reset c] } :=
  ⟨rfl, rfl, rfl⟩

/-- A DECODE of format 0x14 in progress, at the walk's test of bit 0. -/
def walking : State :=
  { inDecode (refConfig .s16Q8) [0x14, 0x01, 0x18, 0x00] .walk 3#8 with
    impl := .slotwise
    engine := { Engine.reset with cur := 2#8, flagN := 0x001#9, phase := .walk }
    out := { Outputs.reset with state := .busy, fmtIndex := 3#8, fv := true, flagsRaw := 0x01#8, flagsNorm := 0x001#9 } }

theorem witness_Inv_walking : walking.Inv := by
  constructor <;> decide +kernel

theorem witness_StepKeepsInvariant : walking.Inv ∧ step walking = .next (nextOf (step walking)) :=
  ⟨witness_Inv_walking, eq_next_of_isNext (by decide)⟩

theorem witness_StepRuns_format :
    Running .lookup (inDecode (refConfig .s16Q8) [0x14] .lookup 0xFF#8) ∧
      lookup (refConfig .s16Q8) (message [0x14] none) = some 3 ∧ formatRow 3 entry0x14 = some .fmt0x14 :=
  ⟨⟨rfl, rfl, rfl, rfl, rfl⟩, by decide, by decide⟩

theorem witness_StepRuns_norm :
    Running .norm (inDecode treg [0x12, 0x01] .norm 6#8) ∧
      (inDecode treg [0x12, 0x01] .norm 6#8).entry? = some { entry0x15 .s16Q8 with header := 0x00000512#32 } ∧
      decode .header 0x00000512 = .ok .normIns2 :=
  ⟨⟨rfl, rfl, rfl, rfl, rfl⟩, by decide, by decide⟩

theorem witness_StepRuns_slot :
    Running .slot (inDecode (refConfig .s16Q8) [0x15] .slot 4#8) ∧
      (inDecode (refConfig .s16Q8) [0x15] .slot 4#8).entry? = some (entry0x15 .s16Q8) ∧
      slotSource 4 (entry0x15 .s16Q8) = some .flags15 ∧ decode .flags15 (2 ^ 0) = .ok .f15VBat :=
  ⟨⟨rfl, rfl, rfl, rfl, rfl⟩, by decide, by decide, by decide⟩

theorem witness_StepRuns_sub :
    Running .sub (inDecode (refConfig .s16Q8) [0x15] .sub 4#8) ∧
      (inDecode (refConfig .s16Q8) [0x15] .sub 4#8).entry? = some (entry0x15 .s16Q8) ∧
      decode .descriptor (((entry0x15 .s16Q8).slot 0).desc 0).toNat = .ok (.s16Q12 1#8) :=
  ⟨⟨rfl, rfl, rfl, rfl, rfl⟩, by decide, by decide⟩

theorem witness_Inv_ready : ready.Inv := by
  constructor <;> decide +kernel

theorem witness_StartLatches_atomic : ready.Inv ∧ StartAccepted ready ∧ ready.impl = .atomic :=
  ⟨witness_Inv_ready, ⟨rfl, rfl, by decide⟩, rfl⟩

theorem witness_StartLatches_multicycle :
    ({ ready with impl := .readwise } : State).Inv ∧ StartAccepted { ready with impl := .readwise } ∧
      Impl.readwise ≠ .atomic :=
  ⟨by constructor <;> decide +kernel, ⟨rfl, rfl, by decide⟩, by decide⟩

theorem witness_StartWhileBusy_asserted :
    let s := { walking with inputs := { walking.inputs with start := true } }
    s.inReset = false ∧ s.out.state = .busy ∧ s.inputs.start = true := ⟨rfl, rfl, rfl⟩

theorem witness_StartWhileBusy_access :
    let s := { walking with bus := [.start] }
    s.inReset = false ∧ s.out.state = .busy ∧ ∃ rest, s.bus = .start :: rest := ⟨rfl, rfl, _, rfl⟩

theorem witness_NoStepWhileHeld_start :
    { ready with inReset := true }.inReset = true ∧ { ready with inReset := true }.inputs.start = true := ⟨rfl, rfl⟩

theorem witness_NoStepWhileHeld_access :
    let s := { State.reset with inReset := true, bus := [.start] }
    s.inReset = true ∧ ∃ rest, s.bus = .start :: rest := ⟨rfl, _, rfl⟩

theorem witness_NoStepWhileHeld_other :
    let s := { State.reset with inReset := true, bus := [.reset treg] }
    s.inReset = true ∧ s.inputs.start = false ∧ ∀ rest, s.bus ≠ .start :: rest :=
  ⟨rfl, rfl, fun _ h => nomatch h⟩

/-- The block after the DECODE of `ready`, with a host access pending. -/
def doneReading (r : HostReg) : State := { nextOf (step ready) with bus := [.read r] }

theorem witness_OutputsHeld :
    (nextOf (step ready)).bus = [] ∧ (nextOf (step ready)).inReset = false ∧ (nextOf (step ready)).out.state ≠ .busy ∧
      (nextOf (step ready)).inputs.start = false := by decide +kernel

theorem witness_AbsentSlotRead :
    Accessing (.read (.resValue 2#8)) [] (doneReading (.resValue 2#8)) ∧
      (doneReading (.resValue 2#8)).out.res.present 2 = false := ⟨⟨rfl, by decide +kernel, by decide +kernel⟩, by decide +kernel⟩

theorem doneReading_accessing (r : HostReg) : Accessing (.read r) [] (doneReading r) ∧
    (doneReading r).out.state ≠ .busy :=
  ⟨⟨rfl, witness_OutputsHeld.2.1, witness_OutputsHeld.2.2.2⟩, witness_OutputsHeld.2.2.1⟩

theorem witness_OutputReads_word :
    Accessing (.read (.resValue 1#8)) [] (doneReading (.resValue 1#8)) ∧
    (doneReading (.resValue 1#8)).out.state ≠ .busy ∧
      lookupKey (doneReading (.resValue 1#8)).out.res 1 = some 0x3FF8000000000000#64 :=
  ⟨(doneReading_accessing _).1, (doneReading_accessing _).2, by decide +kernel⟩

theorem witness_OutputReads_meta :
    Accessing (.read .metaOut) [] (doneReading .metaOut) ∧ (doneReading .metaOut).out.state ≠ .busy ∧
      (doneReading .metaOut).out.mv = true ∧
      ((doneReading .metaOut).config.metas[(doneReading .metaOut).out.fmtIndex.toNat]?).isSome = true :=
  ⟨(doneReading_accessing _).1, (doneReading_accessing _).2, by decide +kernel, by decide +kernel⟩

theorem witness_OutputReads_name :
    Accessing (.read (.keyName 9#8)) [] (doneReading (.keyName 9#8)) ∧
    (doneReading (.keyName 9#8)).out.state ≠ .busy ∧
      findName (doneReading (.keyName 9#8)).config.keyName 9 = some "rhSoil" :=
  ⟨(doneReading_accessing _).1, (doneReading_accessing _).2, by decide +kernel⟩

theorem witness_BusyReads (r : HostReg) :
    Accessing (.read r) [] { walking with bus := [.read r] } ∧ { walking with bus := [.read r] }.out.state = .busy :=
  ⟨⟨rfl, rfl, rfl⟩, rfl⟩

theorem witness_BusyReads_registers :
    (HostReg.flagsNorm, 9) ∈ [(HostReg.errCode, 8), (.errBit, 4), (.errCursor, 8), (.errNeed, 2), (.fmtIndex, 8),
        (.flagsRaw, 8), (.flagsNorm, 9), (.consumed, 8)] ∧
      ∃ k, HostReg.resPresent 0xFF#8 = .resPresent k := ⟨by decide, _, rfl⟩

theorem witness_ConfigurationChanges_write :
    Accessing (.writeConfig treg) [] { State.reset with bus := [.writeConfig treg] } := ⟨rfl, rfl, rfl⟩

theorem witness_ConfigurationChanges_step :
    step ready = .next (nextOf (step ready)) ∧ ∀ c rest, ready.bus ≠ .reset c :: rest :=
  ⟨eq_next_of_isNext (by decide), fun _ _ h => nomatch h⟩

theorem witness_InputWrites_write :
    let s := { walking with bus := [.writeMsg 254#8 0xEE#8] }
    Accessing (.writeMsg 254#8 0xEE#8) [] s ∧ (254#8).toNat < 255 ∧ step s = .next (nextOf (step s)) :=
  ⟨⟨rfl, rfl, rfl⟩, by decide, eq_next_of_isNext (by decide)⟩

theorem witness_InputWritesTakeEffect_other (r : HostReq) : Accessing r [] { State.reset with bus := [r] } :=
  ⟨rfl, rfl, rfl⟩

theorem witness_InputWrites_running :
    Running .walk walking ∧ Inputs.undriven.start = false ∧ step walking = .next (nextOf (step walking)) :=
  ⟨⟨rfl, rfl, rfl, rfl, rfl⟩, rfl, eq_next_of_isNext (by decide)⟩

theorem witness_DecodeWritesNoMemory : decodeMessage (latch ready) = .next (nextOf (decodeMessage (latch ready))) :=
  eq_next_of_isNext (by decide)

theorem witness_FormatRows :
    formatRow 0 entryP2 = some .fmtP2 ∧ formatRow 1 entryP3 = some .fmtP3 ∧ formatRow 2 entry0x11 = some .fmt0x11 ∧
      formatRow 3 entry0x14 = some .fmt0x14 ∧ formatRow 4 (entry0x15 .u16Q8) = some .fmt0x15 ∧
      treg.entries[0]? = some entryP2 ∧ treg.entries[1]? = some entryP3 ∧ treg.entries[2]? = some entry0x11 ∧
      treg.entries[3]? = some entry0x14 ∧ treg.entries[4]? = some (entry0x15 .s16Q8) := by decide +kernel

theorem witness_FetchFlags_present :
    let s := { inDecode (refConfig .s16Q8) [0x14, 0x05] .flags 3#8 with
      engine := { Engine.reset with cur := 1#8, phase := .flags } }
    Running .flags s ∧ s.engine.cur.toNat + 1 ≤ s.snap.len.toNat := ⟨⟨rfl, rfl, rfl, rfl, rfl⟩, by decide⟩

theorem witness_FetchFlags_absent :
    let s := { inDecode (refConfig .s16Q8) [0x14] .flags 3#8 with
      engine := { Engine.reset with cur := 1#8, phase := .flags } }
    Running .flags s ∧ s.snap.len.toNat < s.engine.cur.toNat + 1 := ⟨⟨rfl, rfl, rfl, rfl, rfl⟩, by decide⟩

/-- A DECODE at CHECK_ASSIGNED in format 0x14 with some normalised flags. -/
def checking (g : Flags9) : State :=
  { inDecode (refConfig .s16Q8) [0x14, 0x00] .check 3#8 with
    engine := { Engine.reset with cur := 2#8, flagN := g, phase := .check } }

theorem witness_CheckAssigned_passes :
    Running .check (checking 0x005#9) ∧ (checking 0x005#9).entry? = some entry0x14 ∧
      ∀ k, k < 9 → (0x005#9).getLsbD k = true → k ≤ 7 ∧ descKind (entry0x14.slot k).d0 ≠ 0#4 :=
  ⟨⟨rfl, rfl, rfl, rfl, rfl⟩, by decide, by decide⟩

theorem witness_CheckAssigned_fails_at_bit_8 :
    Running .check (checking 0x105#9) ∧ (checking 0x105#9).entry? = some entry0x14 ∧
      8 < 9 ∧ (0x105#9).getLsbD 8 = true ∧ ¬(8 ≤ 7 ∧ descKind (entry0x14.slot 8).d0 ≠ 0#4) ∧
      ∀ j, j < 8 → (0x105#9).getLsbD j = true → descKind (entry0x14.slot j).d0 ≠ 0#4 :=
  ⟨⟨rfl, rfl, rfl, rfl, rfl⟩, by decide, by decide, by decide, by decide, by decide⟩

theorem witness_CheckAssigned_fails_at_bit_1 :
    Running .check (checking 0x103#9) ∧ (0x103#9).getLsbD 1 = true ∧
      ¬(1 ≤ 7 ∧ descKind (entry0x14.slot 1).d0 ≠ 0#4) ∧
      ∀ j, j < 1 → (0x103#9).getLsbD j = true → descKind (entry0x14.slot j).d0 ≠ 0#4 :=
  ⟨⟨rfl, rfl, rfl, rfl, rfl⟩, by decide, by decide, by decide⟩

theorem witness_WalkTests_set :
    Running .walk walking ∧ walking.engine.bit.toNat < 8 ∧
    walking.engine.flagN.getLsbD walking.engine.bit.toNat = true :=
  ⟨⟨rfl, rfl, rfl, rfl, rfl⟩, by decide, by decide⟩

theorem witness_WalkTests_clear :
    let s := { walking with engine := { walking.engine with bit := 7#4 } }
    Running .walk s ∧ s.engine.bit.toNat < 8 ∧ s.engine.flagN.getLsbD s.engine.bit.toNat = false :=
  ⟨⟨rfl, rfl, rfl, rfl, rfl⟩, by decide, by decide⟩

theorem witness_Commit :
    let s := { walking with engine := { walking.engine with bit := 8#4, cur := 4#8, pend := [(1, 0x3FF8000000000000#64)] } }
    Running .walk s ∧ 8 ≤ s.engine.bit.toNat ∧ s.engine.pend.present 1 = true :=
  ⟨⟨rfl, rfl, rfl, rfl, rfl⟩, by decide, by decide⟩

/-- A one-byte field at the last byte of the message. -/
theorem witness_one_byte_kinds :
    (atField [0xFF]).engine.cur.toNat + 1 ≤ (atField [0xFF]).snap.len.toNat := by decide

/-- A two-byte field at the last two bytes of the message. -/
theorem witness_two_byte_kinds :
    (atField [0xFF, 0x00]).engine.cur.toNat + 2 ≤ (atField [0xFF, 0x00]).snap.len.toNat := by decide

/-- A field whose bytes do not fit: none left, and one of two. -/
theorem witness_kinds_truncated :
    (atField []).snap.len.toNat < (atField []).engine.cur.toNat + 1 ∧
      (atField [0xFF]).snap.len.toNat < (atField [0xFF]).engine.cur.toNat + 2 := by decide

theorem witness_PendingWrite :
    ResultFile.wf [(1, 0x3FF8000000000000#64), (255, 0#64)] ∧ (2#8 : Key) ≠ 0#8 ∧ 1 ≠ (2#8 : Key).toNat := by decide

/-- The slots of REF under a message that ends with the slot's last byte; the same entries stand in TREG. -/
theorem witness_single_slots :
    (atField [0xFF, 0x00]).config.entries[3]? = some entry0x14 ∧ entry0x14.slot0 = ⟨0x0012#16, 0x0000#16, 0x0000#16⟩ ∧
      entry0x14.slot2 = ⟨0x0021#16, 0x0000#16, 0x0000#16⟩ ∧
      (atField [0xFF, 0x00]).config.entries[4]? = some (entry0x15 .s16Q8) ∧
      (entry0x15 .s16Q8).slot0 = ⟨0x0012#16, 0x0000#16, 0x0000#16⟩ ∧
      (entry0x15 .s16Q8).slot2 = ⟨0x0021#16, 0x0000#16, 0x0000#16⟩ ∧
      (entry0x15 .s16Q8).slot4 = ⟨0x0067#16, 0x0000#16, 0x0000#16⟩ ∧
      (entry0x15 .s16Q8).slot5 = ⟨0x0073#16, 0x0000#16, 0x0000#16⟩ ∧
      (atField [0xFF, 0x00]).engine.cur.toNat + 2 ≤ (atField [0xFF, 0x00]).snap.len.toNat := by decide

theorem witness_compound_slots :
    (atField [0x15, 0x9D, 0x5F, 0xCD, 0xC3]).config.entries[4]? = some (entry0x15 .s16Q8) ∧
      (entry0x15 .s16Q8).slot3 = ⟨0x0033#16, 0x0045#16, 0x0056#16⟩ ∧
      (atField [0x15, 0x9D, 0x5F, 0xCD, 0xC3]).engine.cur.toNat + 5 ≤
        (atField [0x15, 0x9D, 0x5F, 0xCD, 0xC3]).snap.len.toNat ∧
      (entry0x15 .s16Q8).slot6 = ⟨0x0083#16, 0x0096#16, 0x0000#16⟩ ∧
      (entry0x15 .u16Q8).slot6 = ⟨0x0084#16, 0x0096#16, 0x0000#16⟩ ∧
      (atField [0x14, 0x46, 0xE4]).engine.cur.toNat + 3 ≤ (atField [0x14, 0x46, 0xE4]).snap.len.toNat := by decide

theorem witness_SlotRowsTruncate_second :
    (atField [0x15, 0x9D, 0x5F]).config.entries[4]? = some (entry0x15 .s16Q8) ∧
      (entry0x15 .s16Q8).slot 3 = ⟨0x0033#16, 0x0045#16, 0x0056#16⟩ ∧ [2, 2, 1] = [2] ++ 2 :: [1] ∧
      (atField [0x15, 0x9D, 0x5F]).engine.cur.toNat + [2].sum ≤ (atField [0x15, 0x9D, 0x5F]).snap.len.toNat ∧
      (atField [0x15, 0x9D, 0x5F]).snap.len.toNat < (atField [0x15, 0x9D, 0x5F]).engine.cur.toNat + [2].sum + 2 :=
  ⟨rfl, rfl, rfl, by decide, by decide⟩

theorem witness_InstructionsLeaveTheRestAlone :
    exec .f15Soil (atField [0xFF, 0x00, 0x80]) = .next (nextOf (exec .f15Soil (atField [0xFF, 0x00, 0x80]))) ∧
      exec .f15Soil (atField [0xFF]) = .next (nextOf (exec .f15Soil (atField [0xFF]))) :=
  ⟨eq_next_of_isNext (by decide), eq_next_of_isNext (by decide)⟩

theorem witness_Lookup :
    lookup treg (message [0x20] (some 9)) = some 7 ∧ lookup treg (message [0x15] (some 2)) = some 0 ∧
      lookup treg (message [0x20] none) = none := by decide

theorem witness_UnknownFormat :
    StartAccepted (started (refConfig .s16Q8) [0x99, 0x00] none) ∧
      (started (refConfig .s16Q8) [0x99, 0x00] none).impl = .atomic ∧
      lookup (refConfig .s16Q8) (latch (started (refConfig .s16Q8) [0x99, 0x00] none)).snap = none :=
  ⟨⟨rfl, rfl, by decide⟩, rfl, by decide⟩

theorem witness_EmptyFlags :
    let s := started (refConfig .s16Q8) [0x14, 0x00] none
    s.Inv ∧ StartAccepted s ∧ s.impl = .atomic ∧ lookup s.config (latch s).snap = some 3 ∧
      s.config.entries[3]? = some entry0x14 ∧ 1 = (if headerByteEn entry0x14.header then 1 else 0) ∧
      1 < s.inputs.msgLen.toNat ∧ s.inputs.msgBuf.read 1 = 0#8 :=
  ⟨by constructor <;> decide +kernel, ⟨rfl, rfl, by decide⟩, rfl, by decide, by decide, by decide, by decide,
    by decide⟩

/-- A block about to decode a snapshot under TREG. -/
def holding (bytes : List Byte) (port : Option Byte) : State :=
  { State.reset with config := treg, snap := message bytes port }

/-- The legacy entry of TREG, entry 6. -/
def legacyEntry : Entry := { entry0x15 .s16Q8 with header := 0x00000512#32 }

theorem witness_Legacy_entries :
    treg.wellFormed = true ∧ treg.entries[6]? = some legacyEntry ∧ headerNorm legacyEntry.header = 0b01#2 ∧
      treg.entries[4]? = some (entry0x15 .s16Q8) ∧ headerNorm (entry0x15 .s16Q8).header = 0b00#2 ∧
      legacyEntry.slots = (entry0x15 .s16Q8).slots ∧ headerByteEn legacyEntry.header = true := by decide +kernel

theorem witness_Legacy_successor :
    let s := holding [0x12, 0x05, 0x18, 0x00, 0x00] none
    let r := holding [0x15, 0x09, 0x18, 0x00, 0x00] none
    lookup s.config s.snap = some 6 ∧ lookup r.config r.snap = some 4 ∧ 1 < s.snap.len.toNat ∧
      s.snap.mem.read 1 = 0x05#8 ∧ (0x05#8).getLsbD 7 = false ∧ s.snap.len.toNat + 1 = r.snap.len.toNat + 1 ∧
      (r.snap.mem.read 1).toNat = (0x05#8).toNat / 4 * 8 + (0x05#8).toNat % 4 ∧
      ∀ j, j < 3 → s.snap.mem.read (1 + 1 + j) = r.snap.mem.read (1 + 1 + j) := by decide

theorem witness_Legacy_bit_7 :
    let s := holding [0x12, 0x81] none
    lookup s.config s.snap = some 6 ∧ s.snap.mem.read 1 = 0x81#8 ∧ (0x81#8).getLsbD 7 = true ∧
      ∀ k, k < 8 → (insertZeroAt2 0x81#8).getLsbD k = true → legacyEntry.assigned k = true := by decide

theorem witness_Outcome_unknown : lookup treg (holding [0x99] none).snap = none := by decide

theorem witness_Outcome_no_flag_byte :
    lookup treg (holding [0x12] none).snap = some 6 ∧ (holding [0x12] none).snap.len.toNat < 1 + 1 := by decide

theorem witness_Outcome_unassigned :
    let g := normalise legacyEntry ((holding [0x12, 0x80] none).snap.mem.read 1)
    1 + 1 ≤ (holding [0x12, 0x80] none).snap.len.toNat ∧ g = 0x100#9 ∧ g.getLsbD 8 = true ∧
      ∀ j, j < 8 → g.getLsbD j = true → descKind (legacyEntry.slot j).d0 ≠ 0#4 := by decide

theorem witness_Outcome_done :
    let g := normalise legacyEntry 0x01#8
    (∀ k, k < 9 → g.getLsbD k = true → k ≤ 7 ∧ descKind (legacyEntry.slot k).d0 ≠ 0#4) ∧
      messageLength legacyEntry g ≤ (holding [0x12, 0x01, 0x18, 0x00] none).snap.len.toNat := by decide

theorem witness_Outcome_truncated :
    let g := normalise legacyEntry 0x01#8
    (∀ k, k < 9 → g.getLsbD k = true → k ≤ 7 ∧ descKind (legacyEntry.slot k).d0 ≠ 0#4) ∧
      (holding [0x12, 0x01, 0x18] none).snap.len.toNat < messageLength legacyEntry g := by decide

theorem witness_EveryGatedField :
    let s := holding [0x12, 0x01, 0x18, 0x00] none
    decodeMessage s = .next (nextOf (decodeMessage s)) ∧ (outOf (decodeMessage s)).state = .done ∧
      gatedDescs legacyEntry (outOf (decodeMessage s)).flagsNorm = [] ++ 0x0012#16 :: [] ∧
      decodeDescriptor 0x0012#16 = .ok (.s16Q12 1#8) ∧ memRead s.snap 2 .two = some 0x1800#16 :=
  ⟨eq_next_of_isNext (by decide), by decide +kernel, by decide +kernel, by decide, by decide⟩

/-- The same message with other bytes beyond it, another port that is not valid and an earlier DECODE's outputs. -/
def readyOther : State :=
  { nextOf (step ready) with
    inputs := { ready.inputs with msgBuf := ready.inputs.msgBuf ++ [(9, 0x77#8)], port := 2#8 } }

theorem witness_OutputsDependOnTheMessageAlone :
    StartAccepted ready ∧ StartAccepted readyOther ∧ ready.impl = .atomic ∧ readyOther.impl = .atomic ∧
      ready.config = readyOther.config ∧ ready.inputs.SameMessage readyOther.inputs := by
  refine ⟨⟨rfl, rfl, by decide⟩, ⟨by decide +kernel, rfl, by decide +kernel⟩, rfl,
    by decide +kernel, rfl, rfl, rfl, by decide, ?_⟩
  intro i hi
  have : i < 4 := hi
  interval_cases i <;> decide

theorem witness_MultiCycle : ready.Inv ∧ StartAccepted ready ∧ ready.bus = [] ∧ Impl.readwise ≠ .atomic :=
  ⟨witness_Inv_ready, ⟨rfl, rfl, by decide⟩, rfl, by decide⟩

theorem test_multicycle_stays_busy :
    (outOf (runSteps 9 { ready with impl := .readwise })).state = .busy ∧
      outOf (runSteps 16 { ready with impl := .readwise }) = outOf (step ready) := by decide +kernel

theorem witness_BlockSteps :
    walking.Inv ∧ (walking.bus = [] ∨ walking.inputs.start = true) ∧ walking.inReset = false ∧
      ¬(walking.out.state = .busy ∧ walking.inputs.start = true) :=
  ⟨witness_Inv_walking, .inl rfl, rfl, by decide⟩

theorem witness_BlockSteps_start :
    let s := { ready with bus := [.writeLen 0#8] }
    (s.bus = [] ∨ s.inputs.start = true) ∧ s.inReset = false ∧ ¬(s.out.state = .busy ∧ s.inputs.start = true) :=
  ⟨.inr rfl, rfl, by decide⟩

/-- Magnitudes inside the range and at its two ends: the least normal number, and the last integer before the point from
where rounding overflows. -/
theorem witness_Rne_bounds :
    0 < 100 ∧ 100 ≤ 65535 * 4 * 2 ^ 1022 ∧ 65535 * 4 < 100 * (2 ^ 1024 - 2 ^ 970) ∧
      2 ^ 1022 ≤ 1 * 2 ^ 1022 ∧ 1 < 2 ^ 1022 * (2 ^ 1024 - 2 ^ 970) ∧
      1 ≤ (2 ^ 1024 - 2 ^ 970 - 1) * 2 ^ 1022 ∧ 2 ^ 1024 - 2 ^ 970 - 1 < 1 * (2 ^ 1024 - 2 ^ 970) := by decide +kernel

/-- At the upper end the greatest finite number, from the end on infinity (IEEE 754). -/
theorem test_rne_top :
    rne false (2 ^ 1024 - 2 ^ 970 - 1) 1 = 0x7FEFFFFFFFFFFFFF#64 ∧
      rne false (2 ^ 1024 - 2 ^ 970) 1 = 0x7FF0000000000000#64 := by decide +kernel

/-- Ties go to the even neighbour: `2^53 + 1` down, `2^53 + 3` up. -/
theorem test_rne_ties :
    rne false (2 ^ 53 + 1) 1 = 0x4340000000000000#64 ∧ rne false (2 ^ 53 + 3) 1 = 0x4340000000000002#64 := by
  decide +kernel

theorem witness_Conversions :
    (kindWidth .u8Pct = .one → (0xFF#16).toNat < 256) ∧ (kindWidth .u16P4 = .one → (0xFFFF#16).toNat < 256) ∧
      Kind.u16Pct ≠ .fp16Eng := by decide

/-- W8a as an annotated message of the legacy entry. -/
def annotated : AnnotatedMessage :=
  { name := "w8a"
    port := none
    fmt := some 0x12
    flags := 0x0D
    lines :=
      [⟨0, [⟨0x01, .s16Q12, 0x1800⟩]⟩,
        ⟨3, [⟨0x03, .s16Q8, 0x1900⟩, ⟨0x04, .u16P4, 0x61A8⟩, ⟨0x05, .u8Pct, 0x80⟩]⟩,
        ⟨4, [⟨0x06, .u16Raw, 0x0100⟩]⟩] }

/-- W8a with its lines written in descending k. -/
def annotatedDown : AnnotatedMessage := { annotated with lines := annotated.lines.reverse }

/-- R95: the bytes of W8a, in whatever order its lines are written. -/
theorem test_assemble_W8a :
    assemble annotated = [0x12, 0x0D, 0x18, 0x00, 0x19, 0x00, 0x61, 0xA8, 0x80, 0x01, 0x00] ∧
      assemble annotatedDown = assemble annotated := by decide

/-- R95: the normalised flag bit 8 (flag byte 0x80 of the legacy entry) asks for a line that no slot gives. -/
theorem test_bit8_not_wellFormed :
    ¬ ({ annotated with flags := 0x80, lines := [] } : AnnotatedMessage).WellFormedFor legacyEntry ∧
      ¬ ({ annotated with flags := 0x80, lines := [⟨8, []⟩] } : AnnotatedMessage).WellFormedFor legacyEntry :=
  ⟨fun h => absurd h.2.1 (by decide), fun h => absurd h.2.2.1 (by decide)⟩

theorem witness_DisassemblyInvertsAssembly :
    treg.wellFormed = true ∧ treg.entries[6]? = some legacyEntry ∧ annotatedDown.WellFormedFor legacyEntry ∧
      annotated.WellFormedFor legacyEntry ∧ (annotated.lines.map BitLine.bit).Pairwise (· < ·) ∧
      annotatedDown.port = none ∧ assemble annotatedDown = assemble annotated ∧
      snapshotOf (assemble annotated) none = some (message (assemble annotated) none) ∧
      lookup treg (message (assemble annotated) none) = some 6 :=
  ⟨by decide +kernel, by decide, ⟨by decide, by decide, by decide, by decide⟩,
    ⟨by decide, by decide, by decide, by decide⟩, by decide, rfl, by decide, by decide, by decide⟩

theorem witness_MessagesUpToTheMaximum :
    (List.replicate 255 (0xAA#8)).length ≤ 255 ∧ 255 < (List.replicate 256 (0xAA#8)).length := by decide +kernel

theorem test_disassemble_errors :
    disassemble "m" treg (message [0x12, 0x01, 0x18] none) = .error ⟨.truncatedBuffer, 0#4, 2#8, 2#2⟩ ∧
      (match disassemble "m" treg (message [0x12, 0x01, 0x18, 0x00] none) with
        | .ok m => decide (m.name = "m" ∧ m.port = none ∧ m.lines = [⟨0, [⟨0x01, .s16Q12, 0x1800⟩]⟩])
        | .error _ => false) = true := by decide

end Sys2Proof.Machine
end

section
/-! PROOF. `rne` rounds to the nearest binary64, ties to even, over zero and the normal range (00_scope.md R12). -/

namespace Sys2Proof.Machine

/-! Rounding to a natural number, as a fact about rationals (R12). -/

/-- `m` is the integer nearest to `x`, and the even one where another is as near. -/
def IsNearestEven (x : ℚ) (m : Nat) : Prop :=
  ∀ z : ℤ, |(m : ℚ) - x| ≤ |(z : ℚ) - x| ∧ (z ≠ m → |(z : ℚ) - x| = |(m : ℚ) - x| → m % 2 = 0)

theorem roundHalfEven_even_of_half_above {a b k : Nat} (hb : 0 < b) (h : 2 * a = b + k * (2 * b)) :
    roundHalfEven a b % 2 = 0 := by
  apply roundHalfEven_tie
  rw [← Nat.mul_mod_mul_left, h, Nat.add_mul_mod_self_right, Nat.mod_eq_of_lt (by omega)]

theorem roundHalfEven_even_of_half_below {a b k : Nat} (hb : 0 < b) (h : 2 * a + b = k * (2 * b)) :
    roundHalfEven a b % 2 = 0 := by
  obtain _ | j := k
  · omega
  · exact roundHalfEven_even_of_half_above hb (k := j) (by rw [Nat.add_one_mul j] at h; omega)

theorem abs_roundHalfEven_sub_le {a b : Nat} (hb : 0 < b) : |(roundHalfEven a b : ℚ) - a / b| ≤ 1 / 2 := by
  have hb' : (0 : ℚ) < b := by exact_mod_cast hb
  obtain ⟨hlo, hhi⟩ := roundHalfEven_bounds (a := a) hb
  qify at hlo hhi
  rw [abs_le, sub_le_iff_le_add, le_sub_iff_add_le, ← sub_le_iff_le_add', le_div_iff₀ hb', ← le_sub_iff_add_le',
    div_le_iff₀ hb']
  constructor <;> linarith

theorem roundHalfEven_even_of_abs_eq_half {a b : Nat} (hb : 0 < b)
    (h : |(roundHalfEven a b : ℚ) - a / b| = 1 / 2) : roundHalfEven a b % 2 = 0 := by
  have hb' : (b : ℚ) ≠ 0 := by exact_mod_cast hb.ne'
  rcases eq_or_eq_neg_of_abs_eq h with h | h <;> field_simp at h
  · exact roundHalfEven_even_of_half_below hb (k := roundHalfEven a b) (by qify; linarith)
  · exact roundHalfEven_even_of_half_above hb (k := roundHalfEven a b) (by qify; linarith)

theorem roundHalfEven_isNearestEven {a b : Nat} (hb : 0 < b) : IsNearestEven ((a : ℚ) / b) (roundHalfEven a b) := by
  intro z
  have hm := abs_roundHalfEven_sub_le (a := a) hb
  have hz : z ≠ roundHalfEven a b → 1 / 2 ≤ |(z : ℚ) - a / b| := fun hne => by
    have h1 : (1 : ℚ) ≤ |(z : ℚ) - roundHalfEven a b| := by exact_mod_cast Int.one_le_abs (sub_ne_zero.2 hne)
    have := abs_sub_le (z : ℚ) (a / b) (roundHalfEven a b)
    rw [abs_sub_comm] at hm
    linarith
  refine ⟨?_, fun hne heq => roundHalfEven_even_of_abs_eq_half hb (le_antisymm hm (heq ▸ hz hne))⟩
  by_cases hne : z = roundHalfEven a b
  · simp [hne]
  · exact hm.trans (hz hne)

/-! The binary64 numbers of magnitude at least `2 ^ e` are multiples of the last place `2 ^ (e - 52)`. -/

theorem f64Significand_lt (c : F64) : f64Significand c < 2 ^ 53 := by
  unfold f64Significand
  simp only
  split <;> omega

theorem neg_1074_le_f64Exponent (c : F64) : -1074 ≤ f64Exponent c := by
  unfold f64Exponent
  simp only
  omega

theorem abs_f64Value (c : F64) : |f64Value c| = f64Significand c * 2 ^ f64Exponent c := by
  unfold f64Value
  split <;> simp [abs_mul, abs_of_pos (zpow_pos (two_pos : (0 : ℚ) < 2) _)]

theorem ulp_le_f64Exponent {c : F64} {e : Int} (h : (2 : ℚ) ^ e ≤ |f64Value c|) : e - 52 ≤ f64Exponent c := by
  have hs : (f64Significand c : ℚ) < 2 ^ (53 : ℤ) := by exact_mod_cast f64Significand_lt c
  have hlt : (2 : ℚ) ^ e < 2 ^ (53 + f64Exponent c) := by
    rw [zpow_add₀ two_ne_zero]
    exact (h.trans_eq (abs_f64Value c)).trans_lt (mul_lt_mul_of_pos_right hs (by positivity))
  have := (zpow_lt_zpow_iff_right₀ (one_lt_two : (1 : ℚ) < 2)).1 hlt
  omega

theorem two_zpow_eq_natCast_mul {u k : Int} (h : u ≤ k) : (2 : ℚ) ^ k = ((2 ^ (k - u).toNat : Nat) : ℚ) * 2 ^ u := by
  rw [Nat.cast_pow, Nat.cast_ofNat, ← zpow_natCast, ← zpow_add₀ two_ne_zero]
  congr 1
  omega

theorem f64Value_multiple_of_ulp {c : F64} {e : Int} (h : (2 : ℚ) ^ e ≤ |f64Value c|) :
    ∃ z : ℤ, f64Value c = z * 2 ^ (e - 52) := by
  refine ⟨(if c.getLsbD 63 then -1 else 1) * (f64Significand c * (2 ^ (f64Exponent c - (e - 52)).toNat : Nat)), ?_⟩
  rw [f64Value, two_zpow_eq_natCast_mul (ulp_le_f64Exponent h)]
  push_cast
  ring

theorem two_pow_mul_ulp (k : Nat) (e : Int) : (2 : ℚ) ^ k * 2 ^ (e - 52) = 2 ^ (e + (k - 52)) := by
  rw [← zpow_natCast, ← zpow_add₀ two_ne_zero]
  congr 1
  ring

/-- The nearest multiple `m` of the last place is the nearest value `v` of all those whose large ones are such multiples;
those below `2 ^ e`, itself a multiple, are farther from `q` than it is. -/
theorem nearest_of_isNearestEven {q v : ℚ} {e : Int} {m : Nat} (hq : 2 ^ e ≤ q)
    (hm : IsNearestEven (q / 2 ^ (e - 52)) m) (hv : 2 ^ e ≤ |v| → ∃ z : ℤ, v = z * 2 ^ (e - 52)) :
    |m * 2 ^ (e - 52) - q| ≤ |v - q| ∧
      (v ≠ m * 2 ^ (e - 52) → |v - q| = |m * 2 ^ (e - 52) - q| → m % 2 = 0) := by
  have hu : (0 : ℚ) < 2 ^ (e - 52) := by positivity
  have scale : ∀ y : ℚ, |y * 2 ^ (e - 52) - q| = |y - q / 2 ^ (e - 52)| * 2 ^ (e - 52) := fun y => by
    rw [← abs_of_pos hu, ← abs_mul, sub_mul, abs_of_pos hu, div_mul_cancel₀ _ hu.ne']
  by_cases hlarge : 2 ^ e ≤ |v|
  · obtain ⟨z, rfl⟩ := hv hlarge
    obtain ⟨hle, htie⟩ := hm z
    simp only [scale, mul_le_mul_iff_left₀ hu, mul_left_inj' hu.ne', ne_eq]
    exact ⟨hle, fun hne => htie (by exact_mod_cast hne)⟩
  · have hpow : ((2 ^ 52 : ℤ) : ℚ) * 2 ^ (e - 52) = 2 ^ e := by
      rw [Int.cast_pow, Int.cast_ofNat, two_pow_mul_ulp, Nat.cast_ofNat, sub_self, add_zero]
    have hle : |m * 2 ^ (e - 52) - q| ≤ |2 ^ e - q| := by
      rw [← hpow, scale, scale]
      exact mul_le_mul_of_nonneg_right (hm (2 ^ 52)).1 hu.le
    have hlt : |(2 : ℚ) ^ e - q| < |v - q| := by
      have := (le_abs_self v).trans_lt (not_le.1 hlarge)
      rw [abs_of_nonpos (by linarith), abs_of_neg (by linarith)]
      linarith
    exact ⟨(hle.trans_lt hlt).le, fun _ heq => absurd heq (hle.trans_lt hlt).ne'⟩

/-! Words built from an exponent count and a significand, as `rneMagnitude` builds them. -/

/-- The sign a rounding is given. -/
def signOf (neg : Bool) : ℚ := if neg then -1 else 1

theorem abs_signOf_mul_sub (neg : Bool) (a q : ℚ) : |a - signOf neg * q| = |signOf neg * a - q| := by
  cases neg
  · simp [signOf]
  · simp only [signOf, if_true, neg_one_mul, sub_neg_eq_add]
    rw [← abs_neg, neg_add, sub_eq_add_neg]

theorem signOf_ne_zero (neg : Bool) : signOf neg ≠ 0 := by
  cases neg <;> simp [signOf]

theorem abs_signOf_mul (neg : Bool) (a : ℚ) : |signOf neg * a| = |a| := by
  cases neg <;> simp [signOf]

theorem signOf_mul_signOf (neg : Bool) (a : ℚ) : signOf neg * (signOf neg * a) = a := by
  cases neg <;> simp [signOf]

/-- The word `rne` gives for a magnitude. -/
def signedWord (neg : Bool) (mag : Nat) : F64 := BitVec.ofNat 64 (mag + if neg then 2 ^ 63 else 0)

theorem signedWord_toNat (neg : Bool) {mag : Nat} (h : mag < 2 ^ 63) :
    (signedWord neg mag).toNat = mag + if neg then 2 ^ 63 else 0 := by
  rw [signedWord, BitVec.toNat_ofNat, Nat.mod_eq_of_lt]
  split <;> omega

theorem signedWord_sign (neg : Bool) {mag : Nat} (h : mag < 2 ^ 63) : (signedWord neg mag).getLsbD 63 = neg := by
  rw [BitVec.getLsbD, signedWord_toNat neg h, Nat.testBit_eq_decide_div_mod_eq]
  cases neg <;> simp <;> omega

theorem signedWord_fields (neg : Bool) {e f : Nat} (he : e < 2 ^ 11) (hf : f < 2 ^ 52) :
    ((signedWord neg (e * 2 ^ 52 + f)).toNat / 2 ^ 52) % 2 ^ 11 = e ∧
      (signedWord neg (e * 2 ^ 52 + f)).toNat % 2 ^ 52 = f := by
  refine f64_of_fields ?_ hf
  rw [signedWord_toNat neg (by omega)]
  split <;> omega

theorem signedWord_normal (neg : Bool) {e f : Nat} (h0 : 0 < e) (he : e < 0x7FF) (hf : f < 2 ^ 52) :
    F64Finite (signedWord neg (e * 2 ^ 52 + f)) ∧
      f64Significand (signedWord neg (e * 2 ^ 52 + f)) = 2 ^ 52 + f ∧
      f64Value (signedWord neg (e * 2 ^ 52 + f)) = signOf neg * (((2 ^ 52 + f : Nat) : ℚ) * 2 ^ ((e : Int) - 1075)) := by
  obtain ⟨hexp, hman⟩ := signedWord_fields neg (by omega : e < 2 ^ 11) hf
  have hsig : f64Significand (signedWord neg (e * 2 ^ 52 + f)) = 2 ^ 52 + f := by
    simp only [f64Significand, hexp, hman, h0.ne', if_false]
  have hpow : f64Exponent (signedWord neg (e * 2 ^ 52 + f)) = (e : Int) - 1075 := by
    simp only [f64Exponent, hexp, Nat.max_eq_left h0]
  refine ⟨by rw [F64Finite, hexp]; omega, hsig, ?_⟩
  rw [f64Value, signedWord_sign neg (by omega), hsig, hpow, signOf]

/-- The leading bit of the significand `m` counts one into the exponent field, and a carry to `2 ^ 53` one more. -/
theorem signedWord_carry (neg : Bool) {k m : Nat} (hlo : 2 ^ 52 ≤ m) (hhi : m ≤ 2 ^ 53)
    (hfin : k * 2 ^ 52 + m < 0x7FF * 2 ^ 52) :
    F64Finite (signedWord neg (k * 2 ^ 52 + m)) ∧ f64Significand (signedWord neg (k * 2 ^ 52 + m)) % 2 = m % 2 ∧
      f64Value (signedWord neg (k * 2 ^ 52 + m)) = signOf neg * (m * 2 ^ ((k : Int) - 1074)) := by
  rcases hhi.lt_or_eq with hlt | rfl
  · obtain ⟨hf, hs, hv⟩ := signedWord_normal neg (e := k + 1) (f := m - 2 ^ 52) (by omega) (by omega) (by omega)
    rw [show (k + 1) * 2 ^ 52 + (m - 2 ^ 52) = k * 2 ^ 52 + m by omega] at hf hs hv
    rw [show 2 ^ 52 + (m - 2 ^ 52) = m by omega] at hs hv
    refine ⟨hf, by rw [hs], ?_⟩
    rw [hv]; congr 3; omega
  · obtain ⟨hf, hs, hv⟩ := signedWord_normal neg (e := k + 2) (f := 0) (by omega) (by omega) (by omega)
    rw [show (k + 2) * 2 ^ 52 + 0 = k * 2 ^ 52 + 2 ^ 53 by omega] at hf hs hv
    refine ⟨hf, by rw [hs]; rfl, ?_⟩
    rw [hv, show ((k + 2 : Nat) : Int) - 1075 = 1 + ((k : Int) - 1074) by omega, zpow_add₀ two_ne_zero, zpow_one,
      ← mul_assoc ((2 ^ 52 + 0 : Nat) : ℚ)]
    norm_num

theorem rne_of_pos (neg : Bool) {n : Nat} (d : Nat) (hn : 0 < n) : rne neg n d = signedWord neg (rneMagnitude n d) := by
  rw [rne, if_neg hn.ne', signedWord]

theorem signOf_mul_f64Value_multiple_of_ulp (neg : Bool) {c : F64} {e : Int}
    (h : (2 : ℚ) ^ e ≤ |signOf neg * f64Value c|) : ∃ z : ℤ, signOf neg * f64Value c = z * 2 ^ (e - 52) := by
  rw [abs_signOf_mul] at h
  obtain ⟨z, hz⟩ := f64Value_multiple_of_ulp h
  refine ⟨(if neg then -1 else 1) * z, ?_⟩
  rw [hz, signOf]
  push_cast
  ring

/-! The magnitude in the normal range: the significand is in `[2 ^ 52, 2 ^ 53]` and the exponent field below that of the
infinities. -/

section Normal

variable {n d : Nat} (hn : 0 < n) (hd : 0 < d) (hlo : d ≤ n * 2 ^ 1022) (hhi : n < d * (2 ^ 1024 - 2 ^ 970))

/-- The significand `rneMagnitude` rounds to in the normal range. -/
def normalSignificand (n d : Nat) : Nat :=
  roundHalfEven (n * 2 ^ (-(floorLog2 n d - 52)).toNat) (d * 2 ^ (floorLog2 n d - 52).toNat)

theorem scaled_quotient (n d : Nat) (u : Int) :
    ((n * 2 ^ (-u).toNat : Nat) : ℚ) / (d * 2 ^ u.toNat : Nat) = (n : ℚ) / d / 2 ^ u := by
  rw [zpow_split]
  push_cast
  field_simp

include hd in
theorem normalSignificand_isNearestEven :
    IsNearestEven ((n : ℚ) / d / 2 ^ (floorLog2 n d - 52)) (normalSignificand n d) := by
  rw [← scaled_quotient]
  exact roundHalfEven_isNearestEven (by positivity)

include hd in
theorem abs_normalSignificand_sub_le :
    |(normalSignificand n d : ℚ) - (n : ℚ) / d / 2 ^ (floorLog2 n d - 52)| ≤ 1 / 2 := by
  rw [← scaled_quotient]
  exact abs_roundHalfEven_sub_le (by positivity)

include hn hd in
theorem normalSignificand_bounds : 2 ^ 52 ≤ normalSignificand n d ∧ normalSignificand n d ≤ 2 ^ 53 := by
  obtain ⟨hlow, hhigh⟩ := floorLog2_spec hn hd
  obtain ⟨hdown, hup⟩ := abs_le.1 (abs_normalSignificand_sub_le (n := n) hd)
  have hu : (0 : ℚ) < 2 ^ (floorLog2 n d - 52) := by positivity
  have hx1 : (2 : ℚ) ^ 52 ≤ (n : ℚ) / d / 2 ^ (floorLog2 n d - 52) := by
    rw [le_div_iff₀ hu, two_pow_mul_ulp]
    simpa using hlow
  have hx2 : (n : ℚ) / d / 2 ^ (floorLog2 n d - 52) < 2 ^ 53 := by
    rw [div_lt_iff₀ hu, two_pow_mul_ulp]
    norm_num
    exact hhigh
  constructor
  · have : ((2 ^ 52 : Nat) : ℚ) < (normalSignificand n d + 1 : Nat) := by push_cast; linarith
    exact Nat.lt_succ_iff.1 (by exact_mod_cast this)
  · have : (normalSignificand n d : ℚ) < (2 ^ 53 + 1 : Nat) := by push_cast; linarith
    exact Nat.lt_succ_iff.1 (by exact_mod_cast this)

include hn hd hlo in
theorem floorLog2_ge_of_normal : -1022 ≤ floorLog2 n d := by
  have hd' : (0 : ℚ) < d := by exact_mod_cast hd
  have hq : (2 : ℚ) ^ (-1022 : ℤ) ≤ (n : ℚ) / d := by
    rw [zpow_neg, inv_le_iff_one_le_mul₀ (by positivity), div_mul_eq_mul_div, le_div_iff₀ hd', one_mul]
    exact_mod_cast hlo
  have := (zpow_lt_zpow_iff_right₀ (one_lt_two : (1 : ℚ) < 2)).1 (hq.trans_lt (floorLog2_spec hn hd).2)
  omega

theorem top_eq_half_below (k : Nat) :
    ((2 ^ (k + 54) - 2 ^ k : Nat) : ℚ) = (2 ^ 53 - 1 / 2) * 2 ^ ((k + 1 : Nat) : ℤ) := by
  rw [Nat.cast_sub (Nat.pow_le_pow_right two_pos (by omega)), zpow_natCast]
  push_cast
  ring

include hd hhi in
/-- The upper end of the range is half a last place below `2 ^ 1024`. -/
theorem quotient_lt_half_below_top : (n : ℚ) / d < (2 ^ 53 - 1 / 2) * 2 ^ (971 : ℤ) := by
  have hd' : (0 : ℚ) < d := by exact_mod_cast hd
  have htop : ((2 ^ 1024 - 2 ^ 970 : Nat) : ℚ) = (2 ^ 53 - 1 / 2) * 2 ^ (971 : ℤ) := by
    simpa only [Nat.reduceAdd, Nat.cast_ofNat] using top_eq_half_below 970
  rw [div_lt_iff₀' hd', ← htop]
  exact_mod_cast hhi

include hn hd hhi in
theorem floorLog2_le_of_normal : floorLog2 n d ≤ 1023 := by
  have hlt : (2 : ℚ) ^ floorLog2 n d < 2 ^ (53 + 971 : ℤ) := by
    rw [zpow_add₀ two_ne_zero]
    refine ((floorLog2_spec hn hd).1.trans_lt (quotient_lt_half_below_top hd hhi)).trans ?_
    exact mul_lt_mul_of_pos_right (by norm_num) (by positivity)
  have := (zpow_lt_zpow_iff_right₀ (one_lt_two : (1 : ℚ) < 2)).1 hlt
  omega

include hd hhi in
/-- In the topmost binade the significand does not carry, so the rounding is no infinity. -/
theorem normalSignificand_lt_of_top (he : floorLog2 n d = 1023) : normalSignificand n d < 2 ^ 53 := by
  obtain ⟨-, hup⟩ := abs_le.1 (abs_normalSignificand_sub_le (n := n) hd)
  have hx : (n : ℚ) / d / 2 ^ (floorLog2 n d - 52) < 2 ^ 53 - 1 / 2 := by
    rw [he, div_lt_iff₀ (by positivity)]
    exact quotient_lt_half_below_top hd hhi
  have : (normalSignificand n d : ℚ) < (2 ^ 53 : Nat) := by push_cast; linarith
  exact_mod_cast this

include hn hd hlo hhi in
theorem rneMagnitude_of_normal :
    rneMagnitude n d = (floorLog2 n d + 1022).toNat * 2 ^ 52 + normalSignificand n d ∧
      (floorLog2 n d + 1022).toNat * 2 ^ 52 + normalSignificand n d < 0x7FF * 2 ^ 52 := by
  have hge := floorLog2_ge_of_normal hn hd hlo
  have hle := floorLog2_le_of_normal hn hd hhi
  have hm := (normalSignificand_bounds hn hd).2
  have htop := normalSignificand_lt_of_top hd hhi
  have hfin : (floorLog2 n d + 1022).toNat * 2 ^ 52 + normalSignificand n d < 0x7FF * 2 ^ 52 := by
    rcases hle.lt_or_eq with h | h
    · omega
    · have := htop h
      omega
  refine ⟨?_, hfin⟩
  have hu : ulpExponent n d = floorLog2 n d - 52 := by rw [ulpExponent, max_eq_left hge]
  simp only [rneMagnitude, hu]
  rw [← normalSignificand, show floorLog2 n d - 52 + 1074 = floorLog2 n d + 1022 by ring, min_eq_left hfin.le]

include hn hd hlo hhi in
theorem rne_of_normal (neg : Bool) :
    F64Finite (rne neg n d) ∧ f64Significand (rne neg n d) % 2 = normalSignificand n d % 2 ∧
      f64Value (rne neg n d) = signOf neg * (normalSignificand n d * 2 ^ (floorLog2 n d - 52)) := by
  obtain ⟨hmag, hfin⟩ := rneMagnitude_of_normal hn hd hlo hhi
  obtain ⟨hm1, hm2⟩ := normalSignificand_bounds hn hd
  have hk : (((floorLog2 n d + 1022).toNat : Nat) : Int) - 1074 = floorLog2 n d - 52 := by
    have := floorLog2_ge_of_normal hn hd hlo
    omega
  rw [rne_of_pos neg d hn, hmag, ← hk]
  exact signedWord_carry neg hm1 hm2 hfin

include hn hd hlo hhi in
theorem isRne_rne_of_normal (neg : Bool) : IsRne (signOf neg * ((n : ℚ) / d)) (rne neg n d) := by
  obtain ⟨hfin, hpar, hval⟩ := rne_of_normal hn hd hlo hhi neg
  have near (c : F64) := nearest_of_isNearestEven (v := signOf neg * f64Value c) (floorLog2_spec hn hd).1
    (normalSignificand_isNearestEven hd) (signOf_mul_f64Value_multiple_of_ulp neg)
  refine ⟨hfin, fun c _ => ?_, fun c _ hne heq => ?_, fun h0 => ?_⟩
  · rw [abs_signOf_mul_sub, abs_signOf_mul_sub, hval, signOf_mul_signOf]
    exact (near c).1
  · rw [abs_signOf_mul_sub, abs_signOf_mul_sub, hval, signOf_mul_signOf] at heq
    rw [hpar]
    refine (near c).2 (fun hc => hne ?_) heq
    rw [hval, ← hc, signOf_mul_signOf]
  · have hpos := (normalSignificand_bounds hn hd).1
    have hzero : normalSignificand n d = 0 := by simpa [hval, signOf_ne_zero, zpow_ne_zero] using h0
    omega

end Normal

theorem isRne_zero (neg : Bool) (d : Nat) : IsRne 0 (rne neg 0 d) := by
  have h0 : rne neg 0 d = 0#64 := rfl
  have hs : f64Significand 0#64 = 0 := by decide
  have hv : f64Value 0#64 = 0 := by simp [f64Value, hs]
  rw [h0]
  refine ⟨by unfold F64Finite; decide, fun c _ => ?_, fun _ _ _ _ => by rw [hs], fun _ => rfl⟩
  simp [hv]

/-- Settles O55: the significand is the nearest multiple of the last place, and every binary64 number that is no such
multiple lies below the power of two under the quotient. -/
theorem rneRoundsToNearestEven : Obligations.RneRoundsToNearestEven := by
  unfold Obligations.RneRoundsToNearestEven
  intro neg n d hd hrange
  rcases n.eq_zero_or_pos with rfl | hn
  · simpa using isRne_zero neg d
  · obtain ⟨hlo, hhi⟩ := hrange.resolve_left hn.ne'
    exact isRne_rne_of_normal hn hd hlo hhi neg

end Sys2Proof.Machine
end

section
/-! PROOF. A message presented by the transport (00_scope.md R8; R94, R213). -/

namespace Sys2Proof.Machine

theorem presentMessage_of_le {bytes : List Byte} (port : Option Byte) (s : State) (h : bytes.length ≤ Config.msgMax) :
    presentMessage bytes port s = .next { s with
      inputs :=
        { msgBuf := Memory.latch (memoryFrom 0 bytes) s.inputs.msgBuf bytes.length
          msgLen := BitVec.ofNat 8 bytes.length
          portValid := port.isSome
          port := port.getD s.inputs.port
          start := true } } :=
  if_pos h

theorem read_latch_memoryFrom (bytes : List Byte) (old : Memory) (i : Nat) :
    (Memory.latch (memoryFrom 0 bytes) old bytes.length).read i = bytes[i]?.getD (old.read i) := by
  rw [Memory.read_latch]
  split
  · next h =>
    have := read_memoryFrom bytes 0 i
    rw [Nat.zero_add] at this
    simp [this, h]
  · next h => simp [List.getElem?_eq_none (Nat.not_lt.1 h)]

/-- Settles O59: the presented buffer is the latch of the message's memory over the old buffer, read byte by byte. -/
theorem messagesUpToTheMaximumArePresented : Obligations.MessagesUpToTheMaximumArePresented := by
  unfold Obligations.MessagesUpToTheMaximumArePresented
  intro bytes port s
  constructor
  · intro h
    refine ⟨_, presentMessage_of_le port s h, ?_, fun i b hb => ?_, fun i hi => ?_, rfl, fun p hp => ?_, rfl, rfl⟩
    · exact Nat.mod_eq_of_lt (by omega)
    · simp [read_latch_memoryFrom, hb]
    · simp [read_latch_memoryFrom, hi]
    · simp [hp]
  · intro h
    have hlong : ¬ bytes.length ≤ Config.msgMax := Nat.not_le.2 h
    exact ⟨if_neg hlong, if_neg hlong⟩

end Sys2Proof.Machine
end

section
/-! PROOF. What an instruction can do, and what each fetch runs: exec and the fetches in terms of the shared operations
(40_dispatch_and_walk.md R100 to R112). -/

namespace Sys2Proof.Machine

/-! Instructions as shared operations. -/

/-- A row that reads a sub-value is the kind operation of its kind and key (R130). -/
theorem exec_of_sub? {i : Instr} {k : Kind} {key : Key} (h : i.sub? = some (k, key)) (s : State) :
    exec i s = runKind k key s := by
  cases i <;> simp only [Instr.sub?, Option.some.injEq, Prod.mk.injEq, reduceCtorEq] at h <;>
    (obtain ⟨rfl, rfl⟩ := h; rfl)

/-- A format row is the dispatch to the entry at its own index (R104, R161). -/
theorem exec_of_formatIndex {i : Instr} {e : Nat} (h : formatIndex i = some e) (s : State) :
    exec i s = selectEntry e s := by
  cases i <;> simp only [formatIndex, Option.some.injEq, reduceCtorEq] at h <;> (subst h; rfl)

/-- Every instruction is one of five shared operations, whatever the state. -/
inductive RunsAs (i : Instr) : Prop where
  | select (e : Nat) (h : ∀ s, exec i s = selectEntry e s)
  | norm (f : Byte → Flags9) (h : ∀ s, exec i s = .next (storeFlags f s))
  | none (h : ∀ s, exec i s = .next (endSlot s))
  | kind (k : Kind) (key : Key) (h : ∀ s, exec i s = runKind k key s)
  | slot (e k : Nat) (h : ∀ s, exec i s = runSlot e k s)

theorem runsAs (i : Instr) : RunsAs i := by
  cases i with
  | fmtP2 | fmtP3 | fmt0x11 | fmt0x14 | fmt0x15 => exact .select _ (exec_of_formatIndex rfl)
  | normIdentity => exact .norm normIdentity fun _ => rfl
  | normIns2 => exact .norm insertZeroAt2 fun _ => rfl
  | kindNone => exact .none fun _ => rfl
  | u8Raw | s16Q12 | s16Q8 | u16Q8 | u16P4 | u8Pct | u16Raw | u16Pct | fp16Eng => exact .kind _ _ (exec_of_sub? rfl)
  | f14VBat => exact .slot 3 0 fun _ => rfl
  | f14Boot => exact .slot 3 2 fun _ => rfl
  | f15VBat => exact .slot 4 0 fun _ => rfl
  | f15Boot => exact .slot 4 2 fun _ => rfl
  | f15Env => exact .slot 4 3 fun _ => rfl
  | f15Lux => exact .slot 4 4 fun _ => rfl
  | f15TWater => exact .slot 4 5 fun _ => rfl
  | f15Soil => exact .slot 4 6 fun _ => rfl

/-! What each fetch runs. -/

theorem formatRow_index {e : Nat} {en : Entry} {i : Instr} (h : formatRow e en = some i) : formatIndex i = some e := by
  unfold formatRow at h
  split at h
  · cases h
  · split at h
    · split at h
      · cases h; assumption
      · cases h
    · cases h

/-- The dispatch that is fetched selects the entry LOOKUP finds, as a row or not (R102 to R104, log 27). -/
theorem runFetched_fetchFormat (s : State) :
    runFetched (fetchFormat s) s =
      (lookup s.config s.snap).elim (.next (raiseError .unknownFormat 0xF#4 0#8 0#2 s)) fun e => selectEntry e s := by
  cases hl : lookup s.config s.snap with
  | none => simp [fetchFormat, hl, runFetched, runOp]
  | some e =>
    cases hen : s.config.entries[e]? with
    | none => simp [fetchFormat, hl, hen, runFetched, runOp, selectEntry]
    | some en =>
      cases hrow : formatRow e en with
      | none => simp [fetchFormat, hl, hen, hrow, runFetched, runOp]
      | some i => simp [fetchFormat, hl, hen, hrow, runFetched, exec_of_formatIndex (formatRow_index hrow)]

/-- A slot table belongs to format 0x14 at index 3 or to format 0x15 at index 4 (R87, R161). -/
theorem slotSource_some {e : Nat} {en : Entry} {src : Source} (h : slotSource e en = some src) :
    (e = 3 ∧ src = .flags14) ∨ (e = 4 ∧ src = .flags15) := by
  unfold slotSource at h
  split at h
  · have he := formatRow_index ‹_›
    simp only [formatIndex, Option.some.injEq] at he h
    exact .inl ⟨he.symm, h.symm⟩
  · have he := formatRow_index ‹_›
    simp only [formatIndex, Option.some.injEq] at he h
    exact .inr ⟨he.symm, h.symm⟩
  · cases h

/-- A decoded flag bit is one of the nine of a flag word (R36). -/
theorem lt_nine_of_decode_flags {src : Source} {b : Nat} {i : Instr} (hsrc : src.width = 9)
    (h : decode src (2 ^ b) = .ok i) : b < 9 := by
  by_contra hb
  have : 2 ^ src.width ≤ 2 ^ b := Nat.pow_le_pow_right (by decide) (by omega)
  unfold decode at h
  rw [if_pos this] at h
  cases h

/-- A slot row is the slot of its own entry and flag bit (R167 to R173). -/
theorem exec_of_slotSource {e b : Nat} {en : Entry} {src : Source} {i : Instr} (hsrc : slotSource e en = some src)
    (h : decode src (2 ^ b) = .ok i) (s : State) : exec i s = runSlot e b s := by
  rcases slotSource_some hsrc with ⟨rfl, rfl⟩ | ⟨rfl, rfl⟩ <;>
  · have hb := lt_nine_of_decode_flags rfl h
    interval_cases b <;> cases h <;> rfl

/-- `BIT` at a flag bit of the walk. -/
def atBit (k : Nat) (s : State) : State := { s with engine := { s.engine with bit := BitVec.ofNat 4 k } }

/-- EXEC_SLOT at its flag bit (R112). -/
theorem runSlot_atBit {s : State} {e k : Nat} {en : Entry} (h : s.config.entries[e]? = some en) :
    runSlot e k s = finish (runSubs (en.slot k).descs 0 (atBit k s)) endSlot := runSlot_eq h

theorem runSlot_noEntry {e k : Nat} {s : State} (h : s.config.entries[e]? = none) :
    runSlot e k s = .fault .noSuchEntry := by
  simp [runSlot, h]

/-- The slot that is fetched is that of the selected entry and `BIT`, as a row or not (R110, R112, log 27). -/
theorem runFetched_fetchSlot (s : State) :
    runFetched (fetchSlot s) s = runSlot s.out.fmtIndex.toNat s.engine.bit.toNat s := by
  cases hen : s.entry? with
  | none => simpa [fetchSlot, hen, runFetched, runOp] using (runSlot_noEntry hen).symm
  | some en =>
    cases hsrc : slotSource s.out.fmtIndex.toNat en with
    | none => simp [fetchSlot, hen, hsrc, runFetched, runOp]
    | some src =>
      cases hi : decode src (2 ^ s.engine.bit.toNat) with
      | error x => simp [fetchSlot, hen, hsrc, hi, runFetched, runOp]
      | ok i => simp [fetchSlot, hen, hsrc, hi, runFetched, exec_of_slotSource hsrc hi]

/-- The walk skips a clear bit (R111). -/
theorem walkBits_clear {k : Nat} {s : State} (rest : List Nat) (h : s.engine.flagN.getLsbD k = false) :
    walkBits (k :: rest) s = walkBits rest (atBit k s) := by
  simp [walkBits, h, atBit]

/-- The walk runs the slot of a set bit (R110, R112). -/
theorem walkBits_set {k : Nat} {s : State} (rest : List Nat) (hk : k < 16) (h : s.engine.flagN.getLsbD k = true) :
    walkBits (k :: rest) s = thenRun (runSlot s.out.fmtIndex.toNat k (atBit k s)) (walkBits rest) := by
  have hbit : (atBit k s).engine.bit.toNat = k := Nat.mod_eq_of_lt hk
  have hfetch := runFetched_fetchSlot (atBit k s)
  rw [hbit] at hfetch
  simp only [walkBits, h, if_true]
  exact congrArg (fun r => thenRun r (walkBits rest)) hfetch

/-- Setting `BIT` to itself. -/
theorem atBit_toNat (s : State) : atBit s.engine.bit.toNat s = s := by simp [atBit]

/-! Frames (R58). -/

theorem selectEntry_around {e : Nat} {s t : State} (h : selectEntry e s = .next t) : SameAround s t := by
  obtain ⟨en, -, rfl⟩ := selectEntry_next h
  exact ⟨rfl, rfl, rfl, rfl, rfl, rfl, rfl, rfl⟩

/-- An instruction leaves everything around the engine and the outputs as it was. -/
theorem exec_around {i : Instr} {s t : State} (h : exec i s = .next t) : SameAround s t := by
  cases runsAs i with
  | select e hx => exact selectEntry_around (hx s ▸ h)
  | norm f hx => cases hx s ▸ h; exact storeFlags_around f s
  | none hx => cases hx s ▸ h; exact endSlot_around s
  | kind k key hx => exact runKind_around (hx s ▸ h)
  | slot e k hx => exact runSlot_around (hx s ▸ h)

theorem checkAssigned_around {s t : State} (h : checkAssigned s = .next t) : SameAround s t := by
  obtain ⟨en, -, ⟨k, -, rfl⟩ | ⟨-, rfl⟩⟩ := checkAssigned_next h
  · exact raiseError_around _ _ _ _ s
  · exact ⟨rfl, rfl, rfl, rfl, rfl, rfl, rfl, rfl⟩

theorem runOp_around {o : EngineOp} {s t : State} (h : runOp o s = .next t) : SameAround s t := by
  cases o with
  | unknownFormat => cases h; exact raiseError_around _ _ _ _ s
  | select e => exact selectEntry_around h
  | fetchFlags => cases h; exact fetchFlags_around s
  | checkAssigned => exact checkAssigned_around h
  | walk => cases h; exact walk_around s
  | slot e k => exact runSlot_around h
  | noEntry => cases h
  | hold => cases h; exact SameAround.refl s

theorem runFetched_around {f : Fetched} {s t : State} (h : runFetched f s = .next t) : SameAround s t := by
  cases f with
  | instr i => exact exec_around h
  | op o => exact runOp_around h
  | reserved x => cases h

theorem SameAround.thenRun {s t : State} {r : Result} {f : State → Result}
    (hr : ∀ u, r = .next u → SameAround s u) (hf : ∀ u, f u = .next t → SameAround u t)
    (h : Machine.thenRun r f = .next t) : SameAround s t := by
  rcases thenRun_next h with ⟨ht, -⟩ | ⟨u, hu, -, ht⟩
  · exact hr t ht
  · exact (hr u hu).trans (hf u ht)

theorem walkBits_around {bits : List Nat} {s t : State} (h : walkBits bits s = .next t) : SameAround s t := by
  induction bits generalizing s with
  | nil => cases h; exact SameAround.refl _
  | cons k rest ih =>
    have hbit : SameAround s (atBit k s) := ⟨rfl, rfl, rfl, rfl, rfl, rfl, rfl, rfl⟩
    simp only [walkBits] at h
    split at h
    · exact hbit.trans (SameAround.thenRun (fun _ => runFetched_around) (fun _ => ih) h)
    · exact hbit.trans (ih h)

/-- A whole DECODE leaves everything around the engine and the outputs as it was (R58). -/
theorem decodeMessage_around {s t : State} (h : decodeMessage s = .next t) : SameAround s t := by
  refine (reinit_around s).trans (SameAround.thenRun (fun _ => runFetched_around) (fun _ => ?_) h)
  refine SameAround.thenRun (fun _ hu => by cases hu; exact fetchFlags_around _) fun _ => ?_
  refine SameAround.thenRun (fun _ => runFetched_around) fun _ => ?_
  refine SameAround.thenRun (fun _ => checkAssigned_around) fun _ => ?_
  refine SameAround.thenRun (fun _ => walkBits_around) fun _ hu => ?_
  cases hu
  exact commit_around _

/-! The sub-values of a slot as a loop (R112). -/

/-- The state a sub-value leaves (R112): `CUR` past it and its converted value pending. -/
def afterRead (k : Kind) (key : Key) (raw : Half) (s : State) : State :=
  { s with
    engine := { s.engine with
      cur := s.engine.cur + BitVec.ofNat 8 (kindWidth k).bytes
      pend := s.engine.pend.put key (convert k raw) } }

/-- `SUB` at descriptor j of the slot. -/
def atSub (j : Nat) (s : State) : State := { s with engine := { s.engine with sub := BitVec.ofNat 2 j } }

section Cons
variable {d : Half} (rest : List Half) (j : Nat) {s : State} {i : Instr} {k : Kind} {key : Key}

theorem runSubs_reserved {x : DecodeError} (hd : decodeDescriptor d = .error x) :
    runSubs (d :: rest) j s = .error (.refused (.reservedEncoding x)) := by
  simp [runSubs_cons, hd]

theorem runSubs_end (hd : decodeDescriptor d = .ok i) (hi : i.sub? = none) : runSubs (d :: rest) j s = .ok s := by
  simp [runSubs_cons, hd, hi]

theorem runSubs_truncated (hd : decodeDescriptor d = .ok i) (hi : i.sub? = some (k, key))
    (hm : memRead s.snap s.engine.cur.toNat (kindWidth k) = none) :
    runSubs (d :: rest) j s = .error (.next (raiseError .truncatedBuffer s.engine.bit s.engine.cur
      (BitVec.ofNat 2 (kindWidth k).bytes) (atSub j s))) := by
  simp [runSubs_cons, hd, hi, readSub, hm, atSub]

theorem runSubs_read (hd : decodeDescriptor d = .ok i) (hi : i.sub? = some (k, key)) {raw : Half}
    (hm : memRead s.snap s.engine.cur.toNat (kindWidth k) = some raw) :
    runSubs (d :: rest) j s = runSubs rest (j + 1) (afterRead k key raw (atSub j s)) := by
  simp [runSubs_cons, hd, hi, readSub, hm, atSub, afterRead]

end Cons

/-- What `SUB` advancing and reads that fit keep, a slot keeps: it goes on with it, ends in an error raised from a state
that has it, or meets a reserved word (R88, R112, R183). -/
theorem runSubs_cases {P : State → Prop} (hsub : ∀ u j, P u → P (atSub j u))
    (hread : ∀ u k key raw, P u → memRead u.snap u.engine.cur.toNat (kindWidth k) = some raw →
      P (afterRead k key raw u))
    (descs : List Half) (j : Nat) {s : State} (hs : P s) :
    (∃ t, runSubs descs j s = .ok t ∧ P t) ∨
    (∃ u b c n, runSubs descs j s = .error (.next (raiseError .truncatedBuffer b c n u)) ∧ P u) ∨
    ∃ d ∈ descs, ∃ x, decodeDescriptor d = .error x ∧ runSubs descs j s = .error (.refused (.reservedEncoding x)) := by
  induction descs generalizing j s with
  | nil => exact .inl ⟨s, rfl, hs⟩
  | cons d rest ih =>
    cases hd : decodeDescriptor d with
    | error x => exact .inr (.inr ⟨d, List.mem_cons_self, x, hd, runSubs_reserved rest j hd⟩)
    | ok i =>
      cases hi : i.sub? with
      | none => exact .inl ⟨s, runSubs_end rest j hd hi, hs⟩
      | some p =>
        have hs' := hsub s j hs
        cases hm : memRead s.snap s.engine.cur.toNat (kindWidth p.1) with
        | none => exact .inr (.inl ⟨_, _, _, _, runSubs_truncated rest j hd hi hm, hs'⟩)
        | some raw =>
          rw [runSubs_read rest j hd hi hm]
          refine (ih (j + 1) (hread _ _ _ raw hs' hm)).imp_right (Or.imp_right ?_)
          exact fun ⟨d', hd', h⟩ => ⟨d', List.mem_cons_of_mem d hd', h⟩

/-! What no instruction writes (R101, R116, R184). -/

/-- The committed result, `CONSUMED`, MV, FV and `FLAGS_RAW` are as before. -/
structure SameCommitted (s t : State) : Prop where
  res : t.out.res = s.out.res
  consumed : t.out.consumed = s.out.consumed
  mv : t.out.mv = s.out.mv
  fv : t.out.fv = s.out.fv
  flagsRaw : t.out.flagsRaw = s.out.flagsRaw

theorem SameCommitted.of_out {s t : State} (h : t.out = s.out) : SameCommitted s t := by
  constructor <;> rw [h]

theorem SameCommitted.raise {s u : State} (h : u.out = s.out) (e : ErrCode) (b : BitVec 4) (c : Byte) (n : BitVec 2) :
    SameCommitted s (raiseError e b c n u) := by
  constructor <;> simp [h]

theorem runKind_committed {k : Kind} {key : Key} {s t : State} (h : runKind k key s = .next t) :
    SameCommitted s t := by
  cases hm : memRead s.snap s.engine.cur.toNat (kindWidth k) with
  | none => rw [runKind_truncated hm] at h; cases h; exact .raise rfl _ _ _ _
  | some raw => rw [runKind_fits hm] at h; cases h; exact .of_out (nextSub_out _)

theorem runSlot_committed {e k : Nat} {s t : State} (h : runSlot e k s = .next t) : SameCommitted s t := by
  cases hen : s.config.entries[e]? with
  | none => rw [runSlot_noEntry hen] at h; cases h
  | some en =>
    rw [runSlot_atBit hen] at h
    rcases runSubs_cases (P := fun u => u.out = s.out) (fun _ _ hu => hu) (fun _ _ _ _ hu _ => hu) (en.slot k).descs 0
      (s := atBit k s) rfl with
      ⟨u, hr, hu⟩ | ⟨u, b, c, n, hr, hu⟩ | ⟨d, -, x, -, hr⟩ <;> rw [hr] at h <;> cases h
    · exact .of_out hu
    · exact .raise hu _ _ _ _

theorem exec_committed {i : Instr} {s t : State} (h : exec i s = .next t) : SameCommitted s t := by
  cases runsAs i with
  | select e hx =>
    obtain ⟨en, -, rfl⟩ := selectEntry_next (hx s ▸ h)
    exact ⟨rfl, rfl, rfl, rfl, rfl⟩
  | norm f hx => cases hx s ▸ h; exact ⟨rfl, rfl, rfl, rfl, rfl⟩
  | none hx => cases hx s ▸ h; exact .of_out rfl
  | kind k key hx => exact runKind_committed (hx s ▸ h)
  | slot e k hx => exact runSlot_committed (hx s ▸ h)

/-- Settles O45: the frames of the five operations an instruction can be. -/
theorem instructionsLeaveTheRestAlone : Obligations.InstructionsLeaveTheRestAlone := by
  unfold Obligations.InstructionsLeaveTheRestAlone
  intro i s t h
  obtain ⟨hin, hcfg, himpl, hsnap, hreset, hbus, hdata, hdraws⟩ := exec_around h
  obtain ⟨hres, hcons, hmv, hfv, hraw⟩ := exec_committed h
  refine ⟨hin, hcfg, himpl, hsnap, hreset, hbus, hdata, hdraws, hres, hcons, hmv, hfv, hraw, fun a => ⟨?_, ?_⟩⟩
  · rw [hsnap]
  · rw [hin]

/-! The configuration (R26, R194). -/

theorem acceptStart_config {s t : State} (h : acceptStart s = .next t) : t.config = s.config := by
  unfold acceptStart at h
  split at h
  · exact (decodeMessage_around h).config
  · cases h; rfl
  · cases h; rfl

theorem engineStep_config {s t : State} (h : engineStep s = .next t) : t.config = s.config := by
  unfold engineStep at h
  split at h
  case h_1 => cases h
  case h_2 => exact (runFetched_around h).config
  case h_3 | h_4 | h_5 => exact acceptStart_config h
  case h_6 | h_7 | h_8 => cases h; rfl

theorem readWord_next {r : HostReg} {v : BitVec 64} {s t : State} (h : readWord r v s = .next t) :
    ∃ d n, t = { s with hostData := d, draws := n } := by
  unfold readWord at h
  split at h <;> cases h <;> exact ⟨_, _, rfl⟩

theorem readStatus_next {s t : State} (h : readStatus s = .next t) :
    ∃ d n, t = { s with hostData := d, draws := n } := by
  unfold readStatus at h
  split at h <;> cases h <;> exact ⟨_, _, rfl⟩

theorem readMeta_next {s t : State} (h : readMeta s = .next t) :
    ∃ d n, t = { s with hostData := d, draws := n } := by
  unfold readMeta at h
  split at h
  · split at h <;> cases h
    exact ⟨_, _, rfl⟩
  · cases h
    exact ⟨_, _, rfl⟩

/-- A read changes the read data and the draw counter alone (R47). -/
theorem readReg_next {r : HostReg} {s t : State} (h : readReg r s = .next t) :
    ∃ d n, t = { s with hostData := d, draws := n } := by
  cases r with
  | status => exact readStatus_next h
  | errCode | errBit | errCursor | errNeed | fmtIndex | flagsRaw | flagsNorm | consumed | resPresent =>
    exact readWord_next h
  | resValue k =>
    simp only [readReg] at h
    split at h
    · exact readWord_next h
    · cases h
  | metaOut => exact readMeta_next h
  | keyName k =>
    simp only [readReg] at h
    split at h <;> cases h
    exact ⟨_, _, rfl⟩

/-- What a step that answers a next state did: the block's own step, the host's START among the inputs or not, a write
of an input, a read, or a reset (R47, R66, R210). -/
inductive StepBy (s t : State) : Prop where
  | engine (bus : List HostReq) (j : Inputs) (h : engineStep { s with bus := bus, inputs := j } = .next t)
      (hj : j.msgBuf = s.inputs.msgBuf)
  | write (bus : List HostReq) (j : Inputs) (h : t = { s with bus := bus, inputs := j })
      (hj : j.msgBuf = s.inputs.msgBuf ∨ ∃ a b, a < Config.msgMax ∧ j.msgBuf = s.inputs.msgBuf.write a b)
  | read (bus : List HostReq) (d : HostData) (n : Nat) (h : t = { s with bus := bus, hostData := d, draws := n })
  | reset (c : Configuration) (bus : List HostReq) (h : t = resetWith c { s with bus := bus })
      (hbus : s.bus = .reset c :: bus) (hc : c.wellFormed = true)

theorem stepBy_access {r : HostReq} {bus : List HostReq} {s t : State} (hbus : s.bus = r :: bus)
    (h : access r { s with bus := bus } = .next t) : StepBy s t := by
  cases r with
  | idle => exact .engine bus s.inputs h rfl
  | writeMsg i b =>
    simp only [access] at h
    split at h
    · cases h; exact .write bus _ rfl (.inr ⟨i.toNat, b, ‹_›, rfl⟩)
    · cases h
  | writeLen | writePortValid | writePort => cases h; exact .write bus _ rfl (.inl rfl)
  | start => exact .engine bus _ h rfl
  | read reg =>
    obtain ⟨d, n, rfl⟩ := readReg_next h
    exact .read bus d n rfl
  | writeConfig c => cases h
  | reset c =>
    simp only [access, doReset] at h
    split at h
    · cases h; exact .reset c bus rfl hbus ‹_›
    · cases h

theorem stepBy {s t : State} (h : step s = .next t) : StepBy s t := by
  unfold step hostStep at h
  split at h
  · cases h
  · split at h
    · exact .engine s.bus s.inputs h rfl
    · split at h
      · exact .engine s.bus s.inputs h rfl
      · exact stepBy_access ‹_› h

/-- Settles O17: of what a step can do only a reset writes the configuration. -/
theorem configurationChangesOnlyAtReset : Obligations.ConfigurationChangesOnlyAtReset := by
  unfold Obligations.ConfigurationChangesOnlyAtReset
  refine ⟨fun s c rest h => step_accessing h, fun s t h hreset => ?_⟩
  cases stepBy h with
  | engine bus j he hj => simpa using engineStep_config he
  | write bus j ht hj => rw [ht]
  | read bus d n ht => rw [ht]
  | reset c bus ht hbus hc => exact absurd hbus (hreset c bus)

end Sys2Proof.Machine
end

section
/-! PROOF. Reset values, host reads and input writes, register layouts, the result file (10_state.md R21 to R48). -/

namespace Sys2Proof.Machine

/-! Reset (R48). -/

/-- Settles O6: the outputs, and REF passes its checks. -/
theorem resetLeavesStatedValues : Obligations.ResetLeavesStatedValues := by
  unfold Obligations.ResetLeavesStatedValues
  exact ⟨rfl, rfl, rfl, rfl, rfl, rfl, rfl, rfl, rfl, fun _ => rfl, rfl, rfl, test_load_ref.1⟩

/-- A block that has just left reset with a checked configuration meets the invariant. -/
theorem inv_of_reset {s : State} (hbuf : s.inputs.msgBuf.wf) (hc : s.config.wellFormed = true)
    (hsnap : s.snap = Snapshot.reset) (heng : s.engine = Engine.reset) (hout : s.out = Outputs.reset) : s.Inv where
  msgBuf_wf := hbuf
  mem_wf := by rw [hsnap]; exact Memory.wf_nil
  config_ok := hc
  pend_wf := by rw [heng]; exact ResultFile.wf_nil
  res_wf := by rw [hout]; exact ResultFile.wf_nil
  busy_iff := by rw [heng, hout]; decide
  mv_iff := by rw [hout]; decide
  err_iff := by rw [hout]; decide
  err_clear := by rw [hout]; decide
  no_partial := by rw [hout]; decide
  flags_clear := by rw [hout]; decide
  done_entry := by rw [hout]; exact fun h => nomatch h
  done_consumed := by rw [hout]; exact fun h => nomatch h
  entry_selected := by rw [heng]; exact fun h => absurd rfl h
  fv_before := by rw [hout]; exact fun _ => rfl
  fv_after := by rw [heng, hout]; decide
  cur_bound := by rw [heng, hsnap]; decide
  bit_walk := by rw [heng]; decide
  bit_slot := by rw [heng]; decide
  sub_bound := by rw [heng]; decide

/-- Settles O7: the memories and files are empty and nothing is in progress. -/
theorem resetMeetsInvariant : Obligations.ResetMeetsInvariant :=
  inv_of_reset Memory.wf_nil test_load_ref.1 rfl rfl rfl

/-! STATUS and ERRCODE (R38 to R40). -/

theorem statusByte_fields (d : DecoderState) (fv mv : Bool) :
    (statusByte d fv mv).extractLsb' 0 2 = d.code ∧ (statusByte d fv mv).getLsbD 2 = fv ∧
      (statusByte d fv mv).getLsbD 3 = mv ∧ (statusByte d fv mv).extractLsb' 4 4 = 0#4 := by
  cases d <;> cases fv <;> cases mv <;> decide

/-- Settles O20: the fields of the byte, by the values of STATE, FV and MV. -/
theorem statusLayout : Obligations.StatusLayout := by
  unfold Obligations.StatusLayout
  intro o
  obtain ⟨hstate, hfv, hmv, hzero⟩ := statusByte_fields o.state o.fv o.mv
  exact ⟨hstate, hfv, hmv, hzero, rfl⟩

/-! Host reads (R25, R31, R46, R47). -/

/-- A word register reads its value outside BUSY. -/
theorem readWord_of_not_busy {s : State} (h : s.out.state ≠ .busy) (r : HostReg) (v : BitVec 64) :
    readWord r v s = deliver (.word v) s := by
  unfold readWord
  cases hst : s.out.state with
  | busy => exact absurd hst h
  | idle | done | error => rfl

theorem readStatus_of_not_busy {s : State} (h : s.out.state ≠ .busy) :
    readStatus s = deliver (.word (s.out.statusWord.setWidth 64)) s := by
  unfold readStatus
  cases hst : s.out.state with
  | busy => exact absurd hst h
  | idle | done | error => rfl

/-- Settles O14: the read finds no value at the key. -/
theorem absentSlotReadFaults : Obligations.AbsentSlotReadFaults := by
  unfold Obligations.AbsentSlotReadFaults
  intro s k rest h habsent
  have hnone : lookupKey s.out.res k.toNat = none := by simpa [ResultFile.present] using habsent
  rw [step_accessing h]
  simp [access, readReg, hnone]

/-- The presence bit as the word a host reads (R28). -/
theorem setWidth_ofBool (b : Bool) : (BitVec.ofBool b).setWidth 64 = if b then 1#64 else 0#64 := by
  cases b <;> rfl

/-- Settles O15: register by register, the read delivers its value. -/
theorem outputReadsReturnTheRegisters : Obligations.OutputReadsReturnTheRegisters := by
  unfold Obligations.OutputReadsReturnTheRegisters
  intro s r rest h hidle
  have hword := readWord_of_not_busy (s := { s with bus := rest }) hidle
  have hstatus := readStatus_of_not_busy (s := { s with bus := rest }) hidle
  rw [step_accessing h]
  refine ⟨?_, ?_, ?_⟩
  · rintro v (⟨rfl, rfl⟩ | ⟨rfl, rfl⟩ | ⟨rfl, rfl⟩ | ⟨rfl, rfl⟩ | ⟨rfl, rfl⟩ | ⟨rfl, rfl⟩ | ⟨rfl, rfl⟩ | ⟨rfl, rfl⟩ |
      ⟨rfl, rfl⟩ | ⟨k, rfl, rfl⟩ | ⟨k, rfl, hk⟩)
    · exact hstatus
    iterate 8 exact hword _ _
    · rw [← setWidth_ofBool]; exact hword _ _
    · simp only [access, readReg, hk]; exact hword _ _
  · rintro m rfl hmv hm
    simp [access, readReg, readMeta, hmv, hm, deliver]
  · rintro k name rfl hk
    simp [access, readReg, hk, deliver]

/-! Input writes (R21, R23, R47). -/

/-- Settles O19: each write is the access it names, and the buffer's write is a write of the memory. -/
theorem inputWritesTakeEffect : Obligations.InputWritesTakeEffect := by
  unfold Obligations.InputWritesTakeEffect
  refine ⟨fun s i b rest h hi => ?_, fun s n rest h => step_accessing h, fun s v rest h => step_accessing h,
    fun s p rest h => step_accessing h, fun s rest h => ?_⟩
  · refine ⟨s.inputs.msgBuf.write i.toNat b, ?_, Memory.read_write_same _ _ _, fun j => Memory.read_write_other _ b⟩
    exact (step_accessing h).trans (if_pos hi)
  · rw [step_accessing h, step_start (s := { s with bus := rest, inputs := { s.inputs with start := true } }) h.2.1 rfl]
    rfl

/-! Result files (R27, R112). -/

theorem ResultFile.put_zero (f : ResultFile) (v : F64) : f.put 0#8 v = f := if_pos rfl

theorem ResultFile.put_of_ne {f : ResultFile} {key : Key} (h : key ≠ 0#8) (v : F64) :
    f.put key v = insertKey key.toNat v f := if_neg h

theorem ResultFile.wf_put {f : ResultFile} (key : Key) (v : F64) (h : f.wf) : (f.put key v).wf := by
  by_cases hk : key = 0#8
  · rwa [hk, ResultFile.put_zero]
  · rw [ResultFile.put_of_ne hk]
    refine ⟨rising_insertKey _ v h.1, fun p hp => ?_⟩
    rcases mem_insertKey hp with rfl | hp
    · have hne : key.toNat ≠ 0 := fun h0 => hk (BitVec.eq_of_toNat_eq h0)
      exact ⟨Nat.pos_of_ne_zero hne, key.isLt⟩
    · exact h.2 p hp

theorem ResultFile.lookupKey_put_same {f : ResultFile} {key : Key} (v : F64) (h : key ≠ 0#8) :
    lookupKey (f.put key v) key.toNat = some v := by
  rw [ResultFile.put_of_ne h, lookupKey_insertKey_same]

theorem ResultFile.lookupKey_put_other {f : ResultFile} {key : Key} {k : Nat} (v : F64) (h : k ≠ key.toNat) :
    lookupKey (f.put key v) k = lookupKey f k := by
  by_cases hk : key = 0#8
  · rw [hk, ResultFile.put_zero]
  · rw [ResultFile.put_of_ne hk, lookupKey_insertKey_other v f h]

/-- Settles O40: a write to key 0 is none, any other is an insertion at its key. -/
theorem pendingWriteSetsItsKeyOnly : Obligations.PendingWriteSetsItsKeyOnly := by
  unfold Obligations.PendingWriteSetsItsKeyOnly
  exact fun f key v hf => ⟨ResultFile.wf_put key v hf, ResultFile.lookupKey_put_same v, ResultFile.put_zero f v,
    fun k => ResultFile.lookupKey_put_other v⟩

end Sys2Proof.Machine
end

section
/-! PROOF. What a checked registry gives a DECODE: its descriptors and headers decode (42_registry.md R160). -/

namespace Sys2Proof.Machine

/-- A descriptor of a checked registry: NONE, or a kind with a key other than 0, and decoded so (R83, R84, R160 W6). -/
def DescLegal (d : Half) : Prop :=
  (descKind d = 0#4 ∧ decodeDescriptor d = .ok .kindNone) ∨
    ∃ k i, descKind d = Kind.code k ∧ descKey d ≠ 0#8 ∧ decodeDescriptor d = .ok i ∧ i.sub? = some (k, descKey d)

theorem kind_of_le_nine : ∀ c : BitVec 4, c.toNat ≤ 9 → c = 0#4 ∨ ∃ k ∈ [Kind.u8Raw, .s16Q12, .s16Q8, .u16Q8, .u16P4,
    .u8Pct, .u16Raw, .u16Pct, .fp16Eng], c = k.code := by decide

theorem decodeDescriptor_of_kind {d : Half} {k : Kind} (hr : descReserved d = 0#4) (hk : descKind d = k.code) :
    ∃ i, decodeDescriptor d = .ok i ∧ i.sub? = some (k, descKey d) := by
  cases k <;> exact ⟨_, by simp [decodeDescriptor, hr, hk, Kind.code]; rfl, rfl⟩

theorem descLegal_of_checked {d : Half} (hr : descReserved d = 0#4) (hk : (descKind d).toNat ≤ 9)
    (hkey : descKey d = 0#8 ↔ descKind d = 0#4) : DescLegal d := by
  rcases kind_of_le_nine _ hk with h0 | ⟨k, -, hk⟩
  · exact .inl ⟨h0, by simp [decodeDescriptor, hr, h0, hkey]⟩
  · obtain ⟨i, hd, hi⟩ := decodeDescriptor_of_kind hr hk
    have hne : k.code ≠ 0#4 := by cases k <;> decide
    exact .inr ⟨k, i, hk, fun h => hne (hk ▸ hkey.1 h), hd, hi⟩

theorem descLegal_zero : DescLegal 0x0000#16 := .inl ⟨rfl, rfl⟩

/-- A descriptor word is looked up in its own table whole (R87). -/
theorem decode_descriptor (d : Half) : decode .descriptor d.toNat = decodeDescriptor d := by
  have hfit : ¬ 2 ^ Source.descriptor.width ≤ d.toNat := Nat.not_le.2 d.isLt
  unfold decode
  rw [if_neg hfit]
  simp only [BitVec.ofNat_toNat, BitVec.setWidth_eq]

/-- A header word is looked up in its own table whole (R87). -/
theorem decode_header (h : HeaderWord) : decode .header h.toNat = decodeHeader h := by
  have hfit : ¬ 2 ^ Source.header.width ≤ h.toNat := Nat.not_le.2 h.isLt
  unfold decode
  rw [if_neg hfit]
  simp only [BitVec.ofNat_toNat, BitVec.setWidth_eq]

section Checked
variable {c : Configuration} (hc : c.wellFormed = true)
include hc

theorem Configuration.checks_of_wellFormed :
    c.checkW1 = true ∧ c.checkW2 = true ∧ c.checkW6 = true ∧ c.checkW8 = true := by
  simp only [Configuration.wellFormed, Bool.and_eq_true, and_assoc] at hc
  obtain ⟨h1, h2, -, -, -, h6, -, h8, -, -⟩ := hc
  exact ⟨h1, h2, h6, h8⟩

/-- The index of an entry fits `FMT_INDEX` (W1, R44). -/
theorem Configuration.toNat_index_of_wellFormed {e : Nat} (he : e < c.entries.length) :
    (BitVec.ofNat 8 e).toNat = e := by
  obtain ⟨h1, -⟩ := Configuration.checks_of_wellFormed hc
  have : c.entries.length ≤ 16 := of_decide_eq_true h1
  exact Nat.mod_eq_of_lt (by omega)

/-- A header decodes to the normalisation it names (W2, R82). -/
theorem decode_header_of_wellFormed {en : Entry} (hen : en ∈ c.entries) :
    decode .header en.header.toNat = .ok (if headerNorm en.header = 1#2 then .normIns2 else .normIdentity) := by
  obtain ⟨-, h2, -⟩ := Configuration.checks_of_wellFormed hc
  have hw := List.all_eq_true.1 h2 en hen
  simp only [Bool.and_eq_true, beq_iff_eq, decide_eq_true_eq] at hw
  obtain ⟨⟨hlow, hhigh⟩, hnorm⟩ := hw
  have hcodes : ∀ n : BitVec 2, n.toNat ≤ 1 → n = 0#2 ∨ n = 1#2 := by decide
  rw [decode_header]
  rcases hcodes _ hnorm with h | h <;> simp [decodeHeader, hlow, hhigh, h]

theorem descLegal_of_wellFormed {en : Entry} (hen : en ∈ c.entries) {d : Half} (hd : d ∈ en.descs) : DescLegal d := by
  obtain ⟨-, -, h6, -⟩ := Configuration.checks_of_wellFormed hc
  have hw := List.all_eq_true.1 (List.all_eq_true.1 h6 en hen) d hd
  simp only [Bool.and_eq_true, beq_iff_eq, decide_eq_true_eq] at hw
  obtain ⟨⟨hr, hk⟩, hkey⟩ := hw
  exact descLegal_of_checked hr hk (by rw [← beq_iff_eq, hkey, beq_iff_eq])

theorem slot_descLegal_of_wellFormed {en : Entry} (hen : en ∈ c.entries) (k : Nat) :
    ∀ d ∈ (en.slot k).descs, DescLegal d := by
  intro d hd
  by_cases hk : k < 8
  · refine descLegal_of_wellFormed hc hen (List.mem_flatMap.2 ⟨en.slot k, ?_, hd⟩)
    interval_cases k <;> simp [Entry.slots, Entry.slot]
  · have hslot : en.slot k = Slot.unassigned := by
      match k, hk with
      | n + 8, _ => rfl
    rw [hslot] at hd
    have : d = 0x0000#16 := by simpa [Slot.unassigned, Slot.descs] using hd
    exact this ▸ descLegal_zero

end Checked

theorem Slot.descLegal_desc {sl : Slot} (h : ∀ d ∈ sl.descs, DescLegal d) (j : Nat) : DescLegal (sl.desc j) := by
  match j with
  | 0 | 1 | 2 => exact h _ (by simp [Slot.descs, Slot.desc])
  | _ + 3 => exact descLegal_zero

/-- The normalisation that is fetched is the one the selected entry's header names (R82, R106, R107). -/
theorem runFetched_fetchNorm {s : State} {en : Entry} (hc : s.config.wellFormed = true) (hen : s.entry? = some en) :
    runFetched (fetchNorm s) s = .next (storeFlags (normalise en) s) := by
  have hmem : en ∈ s.config.entries := List.mem_of_getElem? hen
  have hnorm : normalise en = if headerNorm en.header = 1#2 then insertZeroAt2 else normIdentity := by
    funext f
    unfold normalise
    split <;> rfl
  rw [hnorm]
  simp only [fetchNorm, hen, decode_header_of_wellFormed hc hmem, runFetched]
  split <;> rfl

/-- The descriptor that is fetched ends its slot or reads its sub-value (R83, R112). -/
theorem runFetched_fetchSub {s : State} {en : Entry} (hc : s.config.wellFormed = true) (hen : s.entry? = some en) :
    runFetched (fetchSub s) s = .next (endSlot s) ∨ ∃ k key, runFetched (fetchSub s) s = runKind k key s := by
  have hmem : en ∈ s.config.entries := List.mem_of_getElem? hen
  rcases Slot.descLegal_desc (slot_descLegal_of_wellFormed hc hmem s.engine.bit.toNat) s.engine.sub.toNat with
    ⟨-, hd⟩ | ⟨k, i, -, -, hd, hi⟩
  · exact .inl (by simp [fetchSub, hen, decode_descriptor, hd, runFetched, exec, execKindNone])
  · refine .inr ⟨k, _, (?_ : _ = exec i s).trans (exec_of_sub? hi s)⟩
    simp only [fetchSub, hen, decode_descriptor, hd, runFetched]

end Sys2Proof.Machine
end

section
/-! PROOF. Every step keeps the invariant, and an accepted START has a next state: what holds of a DECODE at each of its
operations, whether it runs in one step or in several (40_dispatch_and_walk.md R100 to R116, R123). -/

namespace Sys2Proof.Machine

/-! What holds of a DECODE before an operation. -/

/-- Nothing is committed and no error is raised, and the memories, files and registry are in form (R34, R49, R116). -/
structure Clean (s : State) : Prop where
  msgBuf_wf : s.inputs.msgBuf.wf
  mem_wf : s.snap.mem.wf
  config_ok : s.config.wellFormed = true
  pend_wf : s.engine.pend.wf
  mv : s.out.mv = false
  errCode : s.out.errCode = .none
  errBit : s.out.errBit = 0xF#4
  errCursor : s.out.errCursor = 0#8
  errNeed : s.out.errNeed = 0#2
  res : s.out.res = []
  consumed : s.out.consumed = 0#8

/-- The flag byte is not read yet (R35, R49). -/
structure Unflagged (s : State) : Prop extends Clean s where
  fv : s.out.fv = false
  flagsRaw : s.out.flagsRaw = 0#8
  flagsNorm : s.out.flagsNorm = 0#9

/-- An entry is selected (R44). -/
def Selected (s : State) : Prop := s.out.fmtIndex.toNat < s.config.entries.length

/-- The flag byte of the selected entry is read, the cursor within the message (R34, R35). -/
structure Flagged (s : State) : Prop extends Clean s where
  selected : Selected s
  fv : s.out.fv = true
  cur_le : s.engine.cur.toNat ≤ s.snap.len.toNat

/-- What holds before the operation of a phase, whatever STATE and the phase register say: the one-step DECODE runs the
same operations as the one in several steps (R123). -/
def At (p : Phase) (s : State) : Prop :=
  match p with
  | .idle => False
  | .lookup => Unflagged s
  | .flags => Unflagged s ∧ Selected s
  | .norm | .check => Flagged s
  | .walk => Flagged s ∧ s.engine.bit.toNat ≤ 8
  | .slot => Flagged s ∧ s.engine.bit.toNat < 8
  | .sub => Flagged s ∧ s.engine.bit.toNat < 8 ∧ s.engine.sub.toNat ≤ 2

/-- The phases after the flag fetch, as State.Inv lists them. -/
def Phase.PastFlags (p : Phase) : Prop := p = .norm ∨ p = .check ∨ p = .walk ∨ p = .slot ∨ p = .sub

theorem At.flagged {p : Phase} {s : State} (h : At p s) (hp : p.PastFlags) : Flagged s := by
  rcases hp with rfl | rfl | rfl | rfl | rfl
  · exact h
  · exact h
  all_goals exact h.1

theorem At.unflagged {p : Phase} {s : State} (h : At p s) (hp : p = .lookup ∨ p = .flags) : Unflagged s := by
  rcases hp with rfl | rfl
  · exact h
  · exact h.1

theorem At.unflagged_or_flagged {p : Phase} {s : State} (h : At p s) : Unflagged s ∨ Flagged s := by
  cases p with
  | idle => exact h.elim
  | lookup => exact .inl (h.unflagged (.inl rfl))
  | flags => exact .inl (h.unflagged (.inr rfl))
  | norm | check => exact .inr h
  | walk | slot | sub => exact .inr h.1

theorem At.clean {p : Phase} {s : State} (h : At p s) : Clean s :=
  h.unflagged_or_flagged.elim Unflagged.toClean Flagged.toClean

theorem At.raised {p : Phase} {s : State} (h : At p s) : s.raised = false := by
  simp [State.raised, h.clean.errCode]

theorem At.flags_clear {p : Phase} {s : State} (h : At p s) (hfv : s.out.fv = false) :
    s.out.flagsRaw = 0#8 ∧ s.out.flagsNorm = 0#9 := by
  rcases h.unflagged_or_flagged with h | h
  · exact ⟨h.flagsRaw, h.flagsNorm⟩
  · rw [h.fv] at hfv; cases hfv

theorem At.selected {p : Phase} {s : State} (h : At p s) (hp : p ≠ .lookup) : Selected s := by
  cases p with
  | idle => exact h.elim
  | lookup => exact absurd rfl hp
  | flags => exact h.2
  | norm | check => exact Flagged.selected h
  | walk | slot | sub => exact h.1.selected

theorem At.ne_idle {p : Phase} {s : State} (h : At p s) : p ≠ .idle := by
  rintro rfl
  exact h

/-! The invariant of a block in a DECODE, and of one whose DECODE has ended. -/

theorem inv_of_at {s : State} (h : At s.engine.phase s) (hbusy : s.out.state = .busy) : s.Inv where
  msgBuf_wf := h.clean.msgBuf_wf
  mem_wf := h.clean.mem_wf
  config_ok := h.clean.config_ok
  pend_wf := h.clean.pend_wf
  res_wf := by rw [h.clean.res]; exact ResultFile.wf_nil
  busy_iff := ⟨fun _ => h.ne_idle, fun _ => hbusy⟩
  mv_iff := by simp [h.clean.mv, hbusy]
  err_iff := by simp [h.clean.errCode, hbusy]
  err_clear := fun _ => ⟨h.clean.errBit, h.clean.errCursor, h.clean.errNeed⟩
  no_partial := fun _ => ⟨h.clean.res, h.clean.consumed⟩
  flags_clear := h.flags_clear
  done_entry := by simp [hbusy]
  done_consumed := by simp [hbusy]
  entry_selected := fun _ hp => h.selected hp
  fv_before := fun hp => (h.unflagged hp).fv
  fv_after := fun hp => (h.flagged hp).fv
  cur_bound := fun hp => (h.flagged hp).cur_le
  bit_walk := fun hp => by rw [hp] at h; exact h.2
  bit_slot := fun hp => by
    rcases hp with hp | hp <;> rw [hp] at h
    · exact h.2
    · exact h.2.1
  sub_bound := fun hp => by rw [hp] at h; exact h.2.2

theorem clean_of_inv {s : State} (h : s.Inv) (hbusy : s.out.state = .busy) : Clean s := by
  obtain ⟨hbit, hcur, hneed⟩ := h.err_clear (by simp [hbusy])
  obtain ⟨hres, hcons⟩ := h.no_partial (by simp [hbusy])
  have hmv : s.out.mv = false := by simpa [hbusy] using h.mv_iff
  have herr : s.out.errCode = .none := by simpa [hbusy] using h.err_iff
  exact ⟨h.msgBuf_wf, h.mem_wf, h.config_ok, h.pend_wf, hmv, herr, hbit, hcur, hneed, hres, hcons⟩

theorem at_of_inv {s : State} (h : s.Inv) (hbusy : s.out.state = .busy) : At s.engine.phase s := by
  have hclean := clean_of_inv h hbusy
  have hflagged (hp : s.engine.phase.PastFlags) : Flagged s := by
    refine ⟨hclean, h.entry_selected (h.busy_iff.1 hbusy) ?_, h.fv_after hp, h.cur_bound hp⟩
    rcases hp with hp | hp | hp | hp | hp <;> simp [hp]
  have hunflagged (hp : s.engine.phase = .lookup ∨ s.engine.phase = .flags) : Unflagged s := by
    obtain ⟨hraw, hnorm⟩ := h.flags_clear (h.fv_before hp)
    exact ⟨hclean, h.fv_before hp, hraw, hnorm⟩
  cases hp : s.engine.phase with
  | idle => exact h.busy_iff.1 hbusy hp
  | lookup => exact hunflagged (.inl hp)
  | flags => exact ⟨hunflagged (.inr hp), h.entry_selected (h.busy_iff.1 hbusy) (by simp [hp])⟩
  | norm => exact hflagged (.inl hp)
  | check => exact hflagged (.inr (.inl hp))
  | walk => exact ⟨hflagged (.inr (.inr (.inl hp))), h.bit_walk hp⟩
  | slot => exact ⟨hflagged (.inr (.inr (.inr (.inl hp)))), h.bit_slot (.inl hp)⟩
  | sub => exact ⟨hflagged (.inr (.inr (.inr (.inr hp)))), h.bit_slot (.inr hp), h.sub_bound hp⟩

/-- An error leaves a block between DECODEs that meets the invariant (R184). -/
theorem raiseError_inv {p : Phase} {s : State} (h : At p s) {e : ErrCode} (he : e ≠ .none) (b : BitVec 4) (c : Byte)
    (n : BitVec 2) : (raiseError e b c n s).Inv where
  msgBuf_wf := h.clean.msgBuf_wf
  mem_wf := h.clean.mem_wf
  config_ok := h.clean.config_ok
  pend_wf := ResultFile.wf_nil
  res_wf := by rw [raiseError_out_res, h.clean.res]; exact ResultFile.wf_nil
  busy_iff := by simp
  mv_iff := by simp [h.clean.mv]
  err_iff := by simp [he]
  err_clear := by simp
  no_partial := fun _ => ⟨h.clean.res, h.clean.consumed⟩
  flags_clear := h.flags_clear
  done_entry := by simp
  done_consumed := by simp
  entry_selected := by simp
  fv_before := by simp
  fv_after := by simp
  cur_bound := by simp
  bit_walk := by simp
  bit_slot := by simp
  sub_bound := by simp

/-- COMMIT leaves a block between DECODEs that meets the invariant (R115). -/
theorem commit_inv {s : State} (h : Flagged s) : (commit s).Inv where
  msgBuf_wf := h.msgBuf_wf
  mem_wf := h.mem_wf
  config_ok := h.config_ok
  pend_wf := h.pend_wf
  res_wf := h.pend_wf
  busy_iff := by simp
  mv_iff := by simp
  err_iff := by simp [h.errCode]
  err_clear := fun _ => ⟨h.errBit, h.errCursor, h.errNeed⟩
  no_partial := by simp
  flags_clear := by simp [h.fv]
  done_entry := fun _ => ⟨h.fv, h.selected⟩
  done_consumed := fun _ => h.cur_le
  entry_selected := by simp
  fv_before := by simp
  fv_after := by simp
  cur_bound := by simp
  bit_walk := by simp
  bit_slot := by simp
  sub_bound := by simp

/-! What an operation gives: an ended DECODE or the facts of the next operation. -/

/-- An outcome is a next state, in which the DECODE has ended with an error or Q holds. -/
def Gives (Q : State → Prop) (r : Result) : Prop := ∃ t, r = .next t ∧ ((t.Inv ∧ t.raised = true) ∨ Q t)

/-- The DECODE is at phase q with its facts, and STATE is that of the state before. -/
structure GoesOn (q : Phase) (s t : State) : Prop where
  facts : At q t
  phase : t.engine.phase = q
  state : t.out.state = s.out.state

theorem Gives.mono {P Q : State → Prop} {r : Result} (h : Gives P r) (hPQ : ∀ t, P t → Q t) : Gives Q r := by
  obtain ⟨t, hr, ht⟩ := h
  exact ⟨t, hr, ht.imp_right (hPQ t)⟩

theorem Gives.facts {q : Phase} {s : State} {r : Result} (h : Gives (GoesOn q s) r) : Gives (At q) r :=
  h.mono fun _ => GoesOn.facts

theorem Gives.inv {q : Phase} {s : State} {r : Result} (h : Gives (GoesOn q s) r) (hbusy : s.out.state = .busy) :
    ∃ t, r = .next t ∧ t.Inv := by
  obtain ⟨t, hr, ⟨hi, -⟩ | ht⟩ := h
  · exact ⟨t, hr, hi⟩
  · exact ⟨t, hr, inv_of_at (ht.phase ▸ ht.facts) (ht.state.trans hbusy)⟩

theorem gives_raise {p : Phase} {s : State} (h : At p s) {e : ErrCode} (he : e ≠ .none) (b : BitVec 4) (c : Byte)
    (n : BitVec 2) (Q : State → Prop) : Gives Q (.next (raiseError e b c n s)) :=
  ⟨_, rfl, .inl ⟨raiseError_inv h he b c n, by simpa [State.raised] using he⟩⟩

theorem gives_thenRun {p : Phase} {Q : State → Prop} {r : Result} {f : State → Result} (hr : Gives (At p) r)
    (hf : ∀ u, At p u → Gives Q (f u)) : Gives Q (thenRun r f) := by
  obtain ⟨t, rfl, ⟨hi, ht⟩ | ht⟩ := hr
  · exact ⟨t, thenRun_next_raised f ht, .inl ⟨hi, ht⟩⟩
  · rw [thenRun_next_going f ht.raised]
    exact hf t ht

/-! The operations (R102 to R115). -/

theorem dispatch_goesOn {s : State} (h : At .lookup s) :
    Gives (GoesOn .flags s) (runFetched (fetchFormat s) s) := by
  rw [runFetched_fetchFormat]
  cases hl : lookup s.config s.snap with
  | none => exact gives_raise h (by decide) _ _ _ _
  | some e =>
    obtain ⟨en, hen, -⟩ := lookupFrom_some hl
    have he : e < s.config.entries.length := (List.getElem?_eq_some_iff.1 hen).1
    refine ⟨_, selectEntry_eq hen, .inr ⟨⟨{ h.unflagged (.inl rfl) with }, ?_⟩, rfl, rfl⟩⟩
    simpa [Selected, Configuration.toNat_index_of_wellFormed h.clean.config_ok he] using he

theorem fetchFlags_goesOn {s : State} (h : At .flags s) : Gives (GoesOn .norm s) (.next (fetchFlags s)) := by
  unfold fetchFlags
  cases hm : memRead s.snap s.engine.cur.toNat .one with
  | none => exact gives_raise h (by decide) _ _ _ _
  | some f =>
    have hle := memRead_some_le hm
    refine ⟨_, rfl, .inr ⟨{ h.clean with selected := h.2, fv := rfl, cur_le := ?_ }, rfl, rfl⟩⟩
    simpa using le_trans (Nat.mod_le _ _) hle

theorem entry?_of_selected {s : State} (h : Selected s) : ∃ en, s.entry? = some en :=
  ⟨_, List.getElem?_eq_getElem h⟩

theorem norm_goesOn {s : State} (h : At .norm s) : Gives (GoesOn .check s) (runFetched (fetchNorm s) s) := by
  obtain ⟨en, hen⟩ := entry?_of_selected (h.selected (by decide))
  rw [runFetched_fetchNorm h.clean.config_ok hen]
  exact ⟨_, rfl, .inr ⟨{ h.flagged (.inl rfl) with }, rfl, rfl⟩⟩

theorem checkAssigned_goesOn {s : State} (h : At .check s) : Gives (GoesOn .walk s) (checkAssigned s) := by
  obtain ⟨en, hen⟩ := entry?_of_selected (h.selected (by decide))
  cases hk : firstUnassigned en s.engine.flagN with
  | some k =>
    simp only [checkAssigned, hen, hk]
    exact gives_raise h (by decide) _ _ _ _
  | none =>
    simp only [checkAssigned, hen, hk]
    have hf : Flagged { s with engine := { s.engine with pend := [], bit := 0#4, sub := 0#2, phase := .walk } } :=
      { h.flagged (.inr (.inl rfl)) with pend_wf := ResultFile.wf_nil }
    exact ⟨_, rfl, .inr ⟨⟨hf, Nat.zero_le 8⟩, rfl, rfl⟩⟩

/-- A sub-value whose bytes fit keeps the cursor within the message and the pending file in form (R34, R112). -/
theorem Flagged.afterRead {s : State} (h : Flagged s) {k : Kind} (key : Key) {raw : Half}
    (hm : memRead s.snap s.engine.cur.toNat (kindWidth k) = some raw) : Flagged (afterRead k key raw s) := by
  have hle := memRead_some_le hm
  refine { h with pend_wf := ResultFile.wf_put key _ h.pend_wf, cur_le := ?_ }
  simp only [Machine.afterRead, BitVec.toNat_add, BitVec.toNat_ofNat, Nat.add_mod_mod]
  exact le_trans (Nat.mod_le _ _) hle

theorem endSlot_goesOn {s : State} (h : Flagged s) (hbit : s.engine.bit.toNat < 8) : GoesOn .walk s (endSlot s) := by
  refine ⟨⟨{ h with }, ?_⟩, rfl, rfl⟩
  simp only [endSlot_engine_bit, BitVec.toNat_add, BitVec.toNat_ofNat]
  omega

/-- EXEC_SLOT of a flag bit of the selected entry (R112): its descriptors are legal, so no word is refused. -/
theorem runSlot_goesOn {s : State} (h : Flagged s) (hbit : s.engine.bit.toNat < 8) :
    Gives (GoesOn .walk s) (runSlot s.out.fmtIndex.toNat s.engine.bit.toNat s) := by
  obtain ⟨en, hen⟩ := entry?_of_selected h.selected
  rw [runSlot_atBit hen, atBit_toNat]
  rcases runSubs_cases (P := fun u => Flagged u ∧ u.engine.bit.toNat < 8 ∧ u.out.state = s.out.state)
    (fun u j hu => ⟨{ hu.1 with }, hu.2⟩) (fun u k key raw hu hm => ⟨hu.1.afterRead key hm, hu.2⟩)
    (en.slot s.engine.bit.toNat).descs 0 (s := s) ⟨h, hbit, rfl⟩ with
    ⟨u, hr, hu, hbit, hst⟩ | ⟨u, b, c, n, hr, hu, hbit, -⟩ | ⟨d, hd, x, hx, -⟩
  · rw [hr]
    have hgo := endSlot_goesOn hu hbit
    exact ⟨_, rfl, .inr ⟨hgo.facts, hgo.phase, hst⟩⟩
  · rw [hr]
    exact gives_raise (p := .slot) ⟨hu, hbit⟩ (by decide) _ _ _ _
  · have hlegal := slot_descLegal_of_wellFormed h.config_ok (List.mem_of_getElem? hen) _ d hd
    rcases hlegal with ⟨-, hok⟩ | ⟨k, i, -, -, hok, -⟩ <;> rw [hok] at hx <;> cases hx

/-- The walk over flag bits below 8 from a state at its tests (R110). -/
theorem walkBits_gives {bits : List Nat} (hbits : ∀ k ∈ bits, k < 8) {s : State} (h : At .walk s) :
    Gives (At .walk) (walkBits bits s) := by
  induction bits generalizing s with
  | nil => exact ⟨s, rfl, .inr h⟩
  | cons k rest ih =>
    obtain ⟨hk, hrest⟩ := List.forall_mem_cons.1 hbits
    have hbit : (atBit k s).engine.bit.toNat = k := Nat.mod_eq_of_lt (by omega)
    have hf : Flagged (atBit k s) := { h.1 with }
    cases hg : s.engine.flagN.getLsbD k with
    | false =>
      rw [walkBits_clear rest hg]
      exact ih hrest ⟨hf, by omega⟩
    | true =>
      have hslot := runSlot_goesOn hf (by omega)
      rw [hbit] at hslot
      rw [walkBits_set rest (by omega) hg]
      exact gives_thenRun hslot.facts fun u => ih hrest

/-- What REINIT leaves (R49, R101). -/
theorem unflagged_of_reinit {s t : State} (h : s.Inv) (hin : t.inputs.msgBuf = s.inputs.msgBuf) (hmem : t.snap.mem.wf)
    (hc : t.config = s.config) (hpend : t.engine.pend = []) (hout : ∃ st, t.out = { Outputs.reset with state := st }) :
    Unflagged t := by
  obtain ⟨st, hout⟩ := hout
  constructor
  · constructor
    · exact hin ▸ h.msgBuf_wf
    · exact hmem
    · exact hc ▸ h.config_ok
    · exact hpend ▸ ResultFile.wf_nil
    all_goals rw [hout]; rfl
  all_goals rw [hout]; rfl

theorem latch_mem_wf {s : State} (h : s.Inv) : (latch s).snap.mem.wf :=
  Memory.wf_latch _ h.msgBuf_wf h.mem_wf

/-- A whole DECODE of a latched message answers a next state, DONE or ERROR (R100, R180). -/
theorem decodeMessage_latch_inv {s : State} (h : s.Inv) : ∃ t, decodeMessage (latch s) = .next t ∧ t.Inv := by
  have h0 : At .lookup (reinit (latch s)) := unflagged_of_reinit h rfl (latch_mem_wf h) rfl rfl ⟨_, rfl⟩
  have hdecode : Gives State.Inv (decodeMessage (latch s)) := by
    refine gives_thenRun (dispatch_goesOn h0).facts fun u hu => ?_
    refine gives_thenRun (fetchFlags_goesOn hu).facts fun u hu => ?_
    refine gives_thenRun (norm_goesOn hu).facts fun u hu => ?_
    refine gives_thenRun (checkAssigned_goesOn hu).facts fun u hu => ?_
    refine gives_thenRun (walkBits_gives (by decide) hu) fun u hu => ?_
    exact ⟨_, rfl, .inr (commit_inv hu.1)⟩
  obtain ⟨t, hr, ⟨hi, -⟩ | hi⟩ := hdecode
  · exact ⟨t, hr, hi⟩
  · exact ⟨t, hr, hi⟩

theorem acceptStart_inv {s : State} (h : s.Inv) : ∃ t, acceptStart s = .next t ∧ t.Inv := by
  have hbegin : (beginDecode (latch s)).Inv := inv_of_at
    (unflagged_of_reinit h rfl (latch_mem_wf h) rfl rfl ⟨.busy, rfl⟩ : At .lookup (beginDecode (latch s))) rfl
  unfold acceptStart
  split
  · exact decodeMessage_latch_inv h
  · exact ⟨_, rfl, hbegin⟩
  · exact ⟨_, rfl, hbegin⟩

/-! One step of a DECODE in several steps (R123). -/

/-- A test of the walk commits, starts a slot, or goes to the next bit (R110, R111). -/
theorem walk_inv {s : State} (h : At .walk s) (hbusy : s.out.state = .busy) : (walk s).Inv := by
  unfold walk
  split
  · exact commit_inv h.1
  · have hbit : s.engine.bit.toNat < 8 := by omega
    split
    · refine inv_of_at ?_ hbusy
      cases s.impl with
      | readwise => exact ⟨{ h.1 with }, hbit, Nat.zero_le 2⟩
      | atomic | slotwise => exact ⟨{ h.1 with }, hbit⟩
    · exact inv_of_at (endSlot_goesOn h.1 hbit).facts hbusy

theorem nextSub_inv {s : State} (h : At .sub s) (hbusy : s.out.state = .busy) : (nextSub s).Inv := by
  obtain ⟨hf, hbit, hsub⟩ := h
  unfold nextSub
  split
  · exact inv_of_at (endSlot_goesOn hf hbit).facts hbusy
  · next hne =>
    have hlt : s.engine.sub.toNat ≠ 2 := fun h2 => hne (BitVec.eq_of_toNat_eq h2)
    refine inv_of_at (?_ : At .sub _) hbusy
    refine ⟨{ hf with }, hbit, ?_⟩
    simp only [BitVec.toNat_add, BitVec.toNat_ofNat]
    omega

theorem runKind_inv {s : State} (h : At .sub s) (hbusy : s.out.state = .busy) (k : Kind) (key : Key) :
    ∃ t, runKind k key s = .next t ∧ t.Inv := by
  cases hm : memRead s.snap s.engine.cur.toNat (kindWidth k) with
  | none => exact ⟨_, runKind_truncated hm, raiseError_inv h (by decide) _ _ _⟩
  | some raw => exact ⟨_, runKind_fits hm, nextSub_inv ⟨h.1.afterRead key hm, h.2⟩ hbusy⟩

theorem runFetched_inv {s : State} (h : s.Inv) (hbusy : s.out.state = .busy) :
    ∃ t, runFetched (fetch s) s = .next t ∧ t.Inv := by
  have hat := at_of_inv h hbusy
  unfold fetch
  cases hp : s.engine.phase <;> rw [hp] at hat
  case idle => exact hat.elim
  case lookup => exact (dispatch_goesOn hat).inv hbusy
  case flags => exact (fetchFlags_goesOn hat).inv hbusy
  case norm => exact (norm_goesOn hat).inv hbusy
  case check => exact (checkAssigned_goesOn hat).inv hbusy
  case walk => exact ⟨_, rfl, walk_inv hat hbusy⟩
  case slot =>
    simp only [runFetched_fetchSlot]
    exact (runSlot_goesOn hat.1 hat.2).inv hbusy
  case sub =>
    obtain ⟨en, hen⟩ := entry?_of_selected hat.1.selected
    rcases runFetched_fetchSub hat.clean.config_ok hen with hr | ⟨k, key, hr⟩
    · exact ⟨_, hr, inv_of_at (endSlot_goesOn hat.1 hat.2.1).facts hbusy⟩
    · exact hr ▸ runKind_inv hat hbusy k key

theorem engineStep_inv {s t : State} (h : s.Inv) (ht : engineStep s = .next t) : t.Inv := by
  have hex {r : Result} (hr : ∃ u, r = .next u ∧ u.Inv) (hrt : r = .next t) : t.Inv := by
    obtain ⟨u, rfl, hu⟩ := hr
    cases hrt
    exact hu
  unfold engineStep at ht
  split at ht
  case h_1 => cases ht
  case h_2 hbusy _ => exact hex (runFetched_inv h hbusy) ht
  case h_3 | h_4 | h_5 => exact hex (acceptStart_inv h) ht
  case h_6 | h_7 | h_8 => cases ht; exact h

/-! The two statements. -/

/-- Settles O8: the block's own step by the facts of its operations, the host's accesses by what they leave alone. -/
theorem stepKeepsInvariant : Obligations.StepKeepsInvariant := by
  unfold Obligations.StepKeepsInvariant
  intro s t h ht
  cases stepBy ht with
  | engine bus j he hj =>
    have hj' : ({ s with bus := bus, inputs := j } : State).Inv := { h with msgBuf_wf := hj ▸ h.msgBuf_wf }
    exact engineStep_inv hj' he
  | write bus j ht hj =>
    have hwf : j.msgBuf.wf := by
      rcases hj with hj | ⟨a, b, ha, hj⟩ <;> rw [hj]
      · exact h.msgBuf_wf
      · exact Memory.wf_write b h.msgBuf_wf ha
    exact ht ▸ { h with msgBuf_wf := hwf }
  | read bus d n ht => exact ht ▸ { h with }
  | reset c bus ht hbus hc => exact ht ▸ inv_of_reset h.msgBuf_wf hc rfl rfl rfl

/-- Settles O10: the DECODE or its beginning answers a next state and changes nothing around it after the latch. -/
theorem startLatchesTheMessage : Obligations.StartLatchesTheMessage := by
  unfold Obligations.StartLatchesTheMessage
  intro s h hstart
  rw [step_startAccepted hstart]
  refine ⟨fun himpl => by simp [acceptStart, himpl], ?_⟩
  obtain ⟨t, ht, -⟩ := acceptStart_inv h
  have haround : SameAround (latch s) t := by
    unfold acceptStart at ht
    split at ht
    · exact decodeMessage_around ht
    all_goals cases ht; exact ⟨rfl, rfl, rfl, rfl, rfl, rfl, rfl, rfl⟩
  refine ⟨t, ht, ?_⟩
  rw [haround.snap, haround.inputs, haround.bus]
  refine ⟨rfl, rfl, rfl, rfl, rfl, fun i hi => ?_⟩
  rw [latch_snap_mem, Memory.read_latch, if_pos hi]

end Sys2Proof.Machine
end

section
/-! PROOF. After DONE the slot file holds the gated sub-values, each from its place (10_state.md R28; 30_encoding.md
R75). -/

namespace Sys2Proof.Machine

/-! Gated descriptors of a checked registry. -/

theorem descWidth_of_kind {d : Half} {k : Kind} (h : descKind d = k.code) : descWidth d = (kindWidth k).bytes := by
  unfold descWidth
  rw [h]
  cases k <;> rfl

/-- No two kinds share a code (R84). -/
theorem code_injective {k k' : Kind} (h : k.code = k'.code) : k = k' := by
  revert h
  cases k <;> cases k' <;> decide

/-- No kind has NONE's code (R84). -/
theorem code_ne_zero (k : Kind) : k.code ≠ 0#4 := by cases k <;> decide

theorem subDescs_sublist (sl : Slot) : sl.subDescs.Sublist (sl.descs.filter fun d => descKind d != 0#4) := by
  have h := (List.takeWhile_sublist _ : sl.subDescs.Sublist sl.descs).filter fun d => descKind d != 0#4
  have hsub : ∀ d ∈ sl.subDescs, (descKind d != 0#4) = true := fun _ hd =>
    List.mem_takeWhile_imp (p := fun d => descKind d != 0#4) hd
  exact (List.filter_eq_self.2 hsub) ▸ h

/-- The gated descriptors are among the entry's named ones, in order. -/
theorem gatedDescs_sublist (en : Entry) (g : Flags9) :
    (gatedDescs en g).Sublist (en.descs.filter fun d => descKind d != 0#4) := by
  have h : en.descs.filter (fun d => descKind d != 0#4) =
      [0, 1, 2, 3, 4, 5, 6, 7].flatMap fun k => (en.slot k).descs.filter fun d => descKind d != 0#4 := by
    rw [Entry.descs, List.filter_flatMap]
    rfl
  rw [h]
  exact (List.filter_sublist.flatMap _).trans (List.Sublist.flatMap_right _ fun k _ => subDescs_sublist (en.slot k))

/-- No key is gated twice (W8). -/
theorem gatedDescs_keys_nodup {c : Configuration} (hc : c.wellFormed = true) {en : Entry} (hen : en ∈ c.entries)
    (g : Flags9) : ((gatedDescs en g).map descKey).Nodup := by
  obtain ⟨-, -, -, h8⟩ := Configuration.checks_of_wellFormed hc
  have hkeys : en.keys.Nodup := of_decide_eq_true (List.all_eq_true.1 h8 en hen)
  exact hkeys.sublist ((gatedDescs_sublist en g).map descKey)

/-! Files that hold the sub-values of a list of descriptors. -/

/-- The file holds exactly the keys of the descriptors, each with the converted raw value at its place: the widths of
those before it after address a (R28, R75). -/
structure Delivers (sn : Snapshot) (a : Nat) (ds : List Half) (f : ResultFile) : Prop where
  present : ∀ k, f.present k = true ↔ ∃ d ∈ ds, (descKey d).toNat = k
  value : ∀ before after d k raw, ds = before ++ d :: after → descKind d = Kind.code k →
    memRead sn (a + (before.map descWidth).sum) (kindWidth k) = some raw →
    lookupKey f (descKey d).toNat = some (convert k raw)

theorem delivers_nil (sn : Snapshot) (a : Nat) : Delivers sn a [] [] where
  present := by simp [ResultFile.present, lookupKey]
  value := by simp

theorem ResultFile.present_put {f : ResultFile} {key : Key} (h : key ≠ 0#8) (v : F64) (k : Nat) :
    (f.put key v).present k = true ↔ f.present k = true ∨ key.toNat = k := by
  unfold ResultFile.present
  by_cases hk : k = key.toNat
  · simp [hk, ResultFile.lookupKey_put_same v h]
  · simp [ResultFile.lookupKey_put_other v hk, Ne.symm hk]

/-- One more sub-value under a key of its own (R112). -/
theorem Delivers.snoc {sn : Snapshot} {a : Nat} {ds : List Half} {f : ResultFile} (h : Delivers sn a ds f) {d : Half}
    {k : Kind} {raw : Half} (hk : descKind d = k.code) (hkey : descKey d ≠ 0#8) (hnew : descKey d ∉ ds.map descKey)
    (hm : memRead sn (a + (ds.map descWidth).sum) (kindWidth k) = some raw) :
    Delivers sn a (ds ++ [d]) (f.put (descKey d) (convert k raw)) where
  present j := by
    rw [ResultFile.present_put hkey, h.present]
    simp [or_and_right, exists_or]
  value before after x k' raw' hds hk' hm' := by
    rcases List.eq_nil_or_concat after with rfl | ⟨after', y, rfl⟩
    · obtain ⟨rfl, hx⟩ := List.append_inj' hds rfl
      obtain rfl : d = x := by simpa using hx
      obtain rfl := code_injective (hk.symm.trans hk')
      rw [hm] at hm'
      cases hm'
      exact ResultFile.lookupKey_put_same _ hkey
    · have hds' : ds ++ [d] = (before ++ x :: after') ++ [y] := by simpa using hds
      obtain ⟨hds', -⟩ := List.append_inj' hds' rfl
      have hne : descKey x ≠ descKey d := by
        rintro heq
        exact hnew (heq ▸ List.mem_map_of_mem (by simp [hds']))
      rw [ResultFile.lookupKey_put_other _ fun hx => hne (BitVec.eq_of_toNat_eq hx)]
      exact h.value before after' x k' raw' hds' hk' hm'

/-! The walk. -/

/-- A DECODE inside the walk over entry en with flags g, no error raised: the sub-values of ds have been read from
address a on, and they are what is pending (R112). -/
structure Walked (sn : Snapshot) (en : Entry) (g : Flags9) (a : Nat) (ds : List Half) (s : State) : Prop where
  snap : s.snap = sn
  entry : s.entry? = some en
  flagN : s.engine.flagN = g
  flagsNorm : s.out.flagsNorm = g
  going : s.raised = false
  cur : s.engine.cur.toNat = a + (ds.map descWidth).sum
  pend : Delivers sn a ds s.engine.pend

section Walk
variable {sn : Snapshot} {en : Entry} {g : Flags9} {a : Nat} {ds : List Half} {s t : State}

/-- A sub-value read under a new key is one more delivered, the cursor past it. -/
theorem Walked.read (h : Walked sn en g a ds s) {d : Half} {k : Kind} {raw : Half} (hk : descKind d = k.code)
    (hkey : descKey d ≠ 0#8) (hnew : descKey d ∉ ds.map descKey)
    (hm : memRead s.snap s.engine.cur.toNat (kindWidth k) = some raw) :
    Walked sn en g a (ds ++ [d]) (afterRead k (descKey d) raw s) := by
  have hle := memRead_some_le hm
  have hlen := s.snap.len.isLt
  refine { h with cur := ?_, pend := h.pend.snoc hk hkey hnew (by rwa [← h.snap, ← h.cur]) }
  simp only [afterRead, BitVec.toNat_add, BitVec.toNat_ofNat, Nat.add_mod_mod]
  rw [Nat.mod_eq_of_lt (by omega), h.cur, List.map_append, List.sum_append, List.map_singleton, List.sum_singleton,
    descWidth_of_kind hk, Nat.add_assoc]

/-- The descriptors of a slot deliver its leading ones with a kind (R85, R112). -/
theorem Walked.runSubs {descs : List Half} {j : Nat} (h : Walked sn en g a ds s) (hlegal : ∀ d ∈ descs, DescLegal d)
    (hkeys : ((ds ++ descs.takeWhile fun d => descKind d != 0#4).map descKey).Nodup)
    (hr : Machine.runSubs descs j s = .ok t) :
    Walked sn en g a (ds ++ descs.takeWhile fun d => descKind d != 0#4) t := by
  induction descs generalizing ds j s with
  | nil => cases hr; simpa using h
  | cons d rest ih =>
    obtain ⟨hd, hrest⟩ := List.forall_mem_cons.1 hlegal
    rcases hd with ⟨h0, hd⟩ | ⟨k, i, hk, hkey, hd, hi⟩
    · rw [runSubs_end rest j hd rfl] at hr
      cases hr
      simpa [h0] using h
    · have hne : (descKind d != 0#4) = true := by simpa [hk] using code_ne_zero k
      rw [List.takeWhile_cons_of_pos (p := fun d => descKind d != 0#4) hne, List.append_cons] at hkeys ⊢
      cases hm : memRead s.snap s.engine.cur.toNat (kindWidth k) with
      | none => rw [runSubs_truncated rest j hd hi hm] at hr; cases hr
      | some raw =>
        rw [runSubs_read rest j hd hi hm] at hr
        have hnew : descKey d ∉ ds.map descKey := by
          have := hkeys.sublist ((List.sublist_append_left _ _).map descKey)
          rw [List.map_append, List.nodup_append] at this
          exact fun hmem => this.2.2 _ hmem _ (by simp) rfl
        have hsub : Walked sn en g a ds (atSub j s) := { h with }
        exact ih (hsub.read hk hkey hnew hm) hrest hkeys hr

/-- A slot that raises no error delivers its sub-values. -/
theorem Walked.runSlot {k : Nat} (h : Walked sn en g a ds s) (hlegal : ∀ d ∈ (en.slot k).descs, DescLegal d)
    (hkeys : ((ds ++ (en.slot k).subDescs).map descKey).Nodup)
    (hr : Machine.runSlot s.out.fmtIndex.toNat k s = .next t) :
    (t.raised = true ∧ t.out.state = .error) ∨ Walked sn en g a (ds ++ (en.slot k).subDescs) t := by
  rw [runSlot_atBit h.entry] at hr
  have hbit : Walked sn en g a ds (atBit k s) := { h with }
  rcases finish_next hr with ⟨u, hu, rfl⟩ | herr
  · exact .inr { hbit.runSubs hlegal hkeys hu with }
  · rcases runSubs_cases (P := fun _ => True) (fun _ _ _ => trivial) (fun _ _ _ _ _ _ => trivial) (en.slot k).descs 0
      (s := atBit k s) trivial with
      ⟨u, hu, -⟩ | ⟨u, b, c, n, hu, -⟩ | ⟨d, -, x, -, hu⟩ <;> rw [hu] at herr <;> cases herr
    exact .inl ⟨rfl, rfl⟩

/-- The walk over a list of bits, if it raises no error, delivers the sub-values of the slots whose bit is set
(R110). -/
theorem Walked.walkBits {bits : List Nat} (h : Walked sn en g a ds s) (hbits : ∀ k ∈ bits, k < 8)
    (hlegal : ∀ k, ∀ d ∈ (en.slot k).descs, DescLegal d)
    (hkeys : ((ds ++ (bits.filter fun k => g.getLsbD k).flatMap fun k => (en.slot k).subDescs).map descKey).Nodup)
    (hr : Machine.walkBits bits s = .next t) :
    (t.raised = true ∧ t.out.state = .error) ∨
      Walked sn en g a (ds ++ (bits.filter fun k => g.getLsbD k).flatMap fun k => (en.slot k).subDescs) t := by
  induction bits generalizing ds s with
  | nil => cases hr; exact .inr (by simpa using h)
  | cons k rest ih =>
    obtain ⟨hk, hrest⟩ := List.forall_mem_cons.1 hbits
    have hbit : Walked sn en g a ds (atBit k s) := { h with }
    cases hg : g.getLsbD k with
    | false =>
      rw [walkBits_clear rest (h.flagN ▸ hg)] at hr
      rw [List.filter_cons_of_neg (by simp [hg])] at hkeys ⊢
      exact ih hbit hrest hkeys hr
    | true =>
      rw [walkBits_set rest (by omega) (h.flagN ▸ hg)] at hr
      rw [List.filter_cons_of_pos hg, List.flatMap_cons, ← List.append_assoc] at hkeys ⊢
      have hslot {u : State} := hbit.runSlot (t := u) (hlegal k)
        (hkeys.sublist ((List.sublist_append_left _ _).map descKey))
      rcases thenRun_next hr with ⟨ht, hraised⟩ | ⟨u, hu, hgoing, ht⟩
      · exact (hslot ht).imp_right fun hw => absurd (hw.going ▸ hraised) (by decide)
      · rcases hslot hu with ⟨hraised, -⟩ | hw
        · exact absurd (hgoing ▸ hraised) (by decide)
        · exact ih hw hrest hkeys ht

end Walk

/-! The whole DECODE of a found entry (R100). -/

/-- The state the dispatch to entry e leaves (R104). -/
def dispatched (e : Nat) (en : Entry) (s : State) : State :=
  { s with
    engine := { s.engine with cur := if headerByteEn en.header then 1#8 else 0#8, phase := .flags }
    out := { s.out with fmtIndex := BitVec.ofNat 8 e } }

/-- The state FETCH_FLAGS leaves when the flag byte is there (R105). -/
def flagsRead (f : Half) (s : State) : State :=
  { s with
    engine := { s.engine with cur := s.engine.cur + 1#8, phase := .norm }
    out := { s.out with flagsRaw := f.setWidth 8, fv := true } }

/-- The state CHECK_ASSIGNED leaves when every set bit has a slot (R109, R110). -/
def walkBegun (s : State) : State :=
  { s with engine := { s.engine with pend := [], bit := 0#4, sub := 0#2, phase := .walk } }

/-- The flags stored for a found entry once the flag byte is read, before the check. -/
def normalised (e : Nat) (en : Entry) (f : Half) (s : State) : State :=
  storeFlags (normalise en) (flagsRead f (dispatched e en (reinit s)))

theorem fetchFlags_none {s : State} (h : memRead s.snap s.engine.cur.toNat .one = none) :
    fetchFlags s = raiseError .truncatedBuffer 0xF#4 s.engine.cur 1#2 s := by
  simp [fetchFlags, h]

theorem fetchFlags_some {s : State} {f : Half} (h : memRead s.snap s.engine.cur.toNat .one = some f) :
    fetchFlags s = flagsRead f s := by
  simp [fetchFlags, h, flagsRead]

section Decode
variable {s : State} {e : Nat} {en : Entry} {f : Half} (hc : s.config.wellFormed = true)
  (hl : lookup s.config s.snap = some e) (hen : s.config.entries[e]? = some en)

theorem dispatched_cur (u : State) :
    (dispatched e en u).engine.cur.toNat = if headerByteEn en.header then 1 else 0 := by
  unfold dispatched
  dsimp only
  split <;> rfl

include hc hen in
theorem normalised_entry? : (normalised e en f s).entry? = some en := by
  have he := Configuration.toNat_index_of_wellFormed hc (List.getElem?_eq_some_iff.1 hen).1
  rw [← hen]
  exact congrArg (fun j => s.config.entries[j]?) he

include hl hen in
theorem decodeMessage_dispatched : decodeMessage s =
    thenRun (.next (fetchFlags (dispatched e en (reinit s)))) fun u =>
    thenRun (runFetched (fetchNorm u) u) fun u =>
    thenRun (checkAssigned u) fun u =>
    thenRun (walkBits [0, 1, 2, 3, 4, 5, 6, 7] u) fun u => .next (commit u) := by
  have hdispatch : runFetched (fetchFormat (reinit s)) (reinit s) = .next (dispatched e en (reinit s)) := by
    rw [runFetched_fetchFormat, reinit_config, reinit_snap, hl]
    exact selectEntry_eq hen
  unfold decodeMessage
  simp only [hdispatch]
  exact thenRun_next_going _ rfl

include hl hen in
/-- Without a flag byte the DECODE ends with TruncatedBuffer (R105). -/
theorem decodeMessage_truncated (hm : memRead s.snap (if headerByteEn en.header then 1 else 0) .one = none) :
    decodeMessage s = .next (raiseError .truncatedBuffer 0xF#4 (dispatched e en (reinit s)).engine.cur 1#2
      (dispatched e en (reinit s))) := by
  rw [← dispatched_cur (e := e) (reinit s)] at hm
  rw [decodeMessage_dispatched hl hen, fetchFlags_none hm]
  exact thenRun_next_raised _ rfl

include hc hl hen in
/-- With a flag byte the DECODE comes to the check of its flags (R106 to R109). -/
theorem decodeMessage_normalised (hm : memRead s.snap (if headerByteEn en.header then 1 else 0) .one = some f) :
    decodeMessage s = thenRun (checkAssigned (normalised e en f s)) fun u =>
      thenRun (walkBits [0, 1, 2, 3, 4, 5, 6, 7] u) fun u => .next (commit u) := by
  rw [← dispatched_cur (e := e) (reinit s)] at hm
  have hnorm := runFetched_fetchNorm (s := flagsRead f (dispatched e en (reinit s))) hc
    (normalised_entry? (f := f) hc hen)
  rw [decodeMessage_dispatched hl hen, fetchFlags_some hm, thenRun_next_going _ rfl, hnorm]
  exact thenRun_next_going _ rfl

include hc hen in
theorem checkAssigned_normalised_none (hk : firstUnassigned en (normalised e en f s).engine.flagN = none) :
    checkAssigned (normalised e en f s) = .next (walkBegun (normalised e en f s)) := by
  simp [checkAssigned, normalised_entry? hc hen, hk, walkBegun]

include hc hen in
theorem checkAssigned_normalised_some {k : Nat} (hk : firstUnassigned en (normalised e en f s).engine.flagN = some k) :
    checkAssigned (normalised e en f s) = .next (raiseError .unassignedFlag (BitVec.ofNat 4 k)
      (normalised e en f s).engine.cur 0#2 (normalised e en f s)) := by
  simp [checkAssigned, normalised_entry? hc hen, hk]

include hc hen in
/-- The walk begins right behind the flag byte, with nothing read. -/
theorem walked_nil : Walked s.snap en (normalised e en f s).engine.flagN
    ((if headerByteEn en.header then 1 else 0) + 1) [] (walkBegun (normalised e en f s)) where
  snap := rfl
  entry := normalised_entry? hc hen
  flagN := rfl
  flagsNorm := rfl
  going := rfl
  cur := by
    unfold walkBegun normalised storeFlags flagsRead dispatched
    dsimp only
    split <;> rfl
  pend := delivers_nil _ _

include hc hl hen in
/-- A DECODE of a found entry that ends DONE commits what its walk delivers (R115). -/
theorem decodeMessage_done {t : State} (h : decodeMessage s = .next t) (hdone : t.out.state = .done) :
    Delivers s.snap ((if headerByteEn en.header then 1 else 0) + 1) (gatedDescs en t.out.flagsNorm) t.out.res := by
  cases hm : memRead s.snap (if headerByteEn en.header then 1 else 0) .one with
  | none => rw [decodeMessage_truncated hl hen hm] at h; cases h; cases hdone
  | some f =>
    rw [decodeMessage_normalised hc hl hen hm] at h
    cases hk : firstUnassigned en (normalised e en f s).engine.flagN with
    | some k =>
      rw [checkAssigned_normalised_some hc hen hk, thenRun_next_raised _ rfl] at h
      cases h
      cases hdone
    | none =>
      rw [checkAssigned_normalised_none hc hen hk, thenRun_next_going _ rfl] at h
      have hmem := List.mem_of_getElem? hen
      have hwalk {u : State} := (walked_nil (f := f) hc hen).walkBits (bits := [0, 1, 2, 3, 4, 5, 6, 7]) (t := u)
        (by decide) (slot_descLegal_of_wellFormed hc hmem) (gatedDescs_keys_nodup hc hmem _)
      rcases thenRun_next h with ⟨ht, hraised⟩ | ⟨u, hu, hgoing, hcommit⟩
      · rcases hwalk ht with ⟨-, herr⟩ | hw
        · rw [hdone] at herr; cases herr
        · exact absurd (hw.going ▸ hraised) (by decide)
      · rcases hwalk hu with ⟨hraised, -⟩ | hw
        · exact absurd (hgoing ▸ hraised) (by decide)
        · cases hcommit
          rw [commit_out_flagsNorm, hw.flagsNorm]
          exact hw.pend

end Decode

/-- A gated descriptor of a checked registry is legal. -/
theorem descLegal_of_gated {c : Configuration} (hc : c.wellFormed = true) {en : Entry} (hen : en ∈ c.entries)
    {g : Flags9} {d : Half} (hd : d ∈ gatedDescs en g) : DescLegal d :=
  descLegal_of_wellFormed hc hen (List.mem_of_mem_filter ((gatedDescs_sublist en g).subset hd))

/-- Settles O51: the committed file is the one the walk delivers, by key and by place. -/
theorem everyGatedFieldIsDelivered : Obligations.EveryGatedFieldIsDelivered := by
  unfold Obligations.EveryGatedFieldIsDelivered
  rintro s t e n en hc h hdone hl hen rfl
  have hdel := decodeMessage_done hc hl hen h hdone
  refine ⟨hdel.present, fun before after d i k key raw hds hd hi hm => ?_⟩
  have hgated : d ∈ gatedDescs en t.out.flagsNorm := by simp [hds]
  rcases descLegal_of_gated hc (List.mem_of_getElem? hen) hgated with ⟨-, hd'⟩ | ⟨k', i', hk', -, hd', hi'⟩
  · cases hd.symm.trans hd'
    cases hi
  · cases hd.symm.trans hd'
    cases hi.symm.trans hi'
    exact hdel.value before after d k raw hds hk' hm

end Sys2Proof.Machine
end

section
/-! PROOF. A DECODE writes only its own outputs and slot file (20_memory.md R58). -/

namespace Sys2Proof.Machine

/-- Settles O21: every operation of the DECODE leaves what stands around the engine and the outputs alone. -/
theorem decodeWritesNoMemory : Obligations.DecodeWritesNoMemory := by
  unfold Obligations.DecodeWritesNoMemory
  intro s t h
  have hsame := decodeMessage_around h
  exact ⟨hsame.inputs, hsame.snap, hsame.config, hsame.bus, hsame.inReset, hsame.impl, hsame.hostData, hsame.draws⟩

end Sys2Proof.Machine
end

section
/-! PROOF. Decoding and encoding are inverse, in every table (30_encoding.md R81 to R88). -/

namespace Sys2Proof.Machine

/-! Fields of a descriptor word (R83). -/

theorem toNat_descKind (d : Half) : (descKind d).toNat = d.toNat % 16 := by simp [descKind]

theorem toNat_descKey (d : Half) : (descKey d).toNat = d.toNat / 16 % 2 ^ 8 := by
  simp [descKey, Nat.shiftRight_eq_div_pow]

theorem toNat_descReserved (d : Half) : (descReserved d).toNat = d.toNat / 2 ^ 12 := by
  have := d.isLt
  simp only [descReserved, BitVec.extractLsb'_toNat, Nat.shiftRight_eq_div_pow]
  omega

theorem toNat_encodeDescriptor (c : BitVec 4) (key : Key) :
    (encodeDescriptor c key).toNat = key.toNat * 16 + c.toNat := by
  simp only [encodeDescriptor, BitVec.toNat_append, BitVec.toNat_ofNat, Nat.zero_mod, Nat.zero_shiftLeft, Nat.zero_or]
  rw [← Nat.shiftLeft_add_eq_or_of_lt c.isLt, Nat.shiftLeft_eq]

@[simp] theorem descKind_encodeDescriptor (c : BitVec 4) (key : Key) : descKind (encodeDescriptor c key) = c := by
  have := c.isLt
  apply BitVec.eq_of_toNat_eq
  rw [toNat_descKind, toNat_encodeDescriptor]
  omega

@[simp] theorem descKey_encodeDescriptor (c : BitVec 4) (key : Key) : descKey (encodeDescriptor c key) = key := by
  have := c.isLt
  have := key.isLt
  apply BitVec.eq_of_toNat_eq
  rw [toNat_descKey, toNat_encodeDescriptor]
  omega

@[simp] theorem descReserved_encodeDescriptor (c : BitVec 4) (key : Key) :
    descReserved (encodeDescriptor c key) = 0#4 := by
  have := c.isLt
  have := key.isLt
  apply BitVec.eq_of_toNat_eq
  rw [toNat_descReserved, toNat_encodeDescriptor, BitVec.toNat_ofNat]
  omega

/-- A word is its three fields, and the encoding leaves the upper one 0 (R83). -/
theorem encodeDescriptor_fields {d : Half} (h : descReserved d = 0#4) :
    encodeDescriptor (descKind d) (descKey d) = d := by
  have hr : d.toNat / 2 ^ 12 = 0 := by rw [← toNat_descReserved, h, BitVec.toNat_ofNat]
  apply BitVec.eq_of_toNat_eq
  rw [toNat_encodeDescriptor, toNat_descKind, toNat_descKey]
  omega

/-! Descriptor words and their rows (R83, R84). -/

/-- The row of a kind with a key (R84). -/
def kindRow (k : Kind) (key : Key) : Instr :=
  match k with
  | .u8Raw => .u8Raw key
  | .s16Q12 => .s16Q12 key
  | .s16Q8 => .s16Q8 key
  | .u16Q8 => .u16Q8 key
  | .u16P4 => .u16P4 key
  | .u8Pct => .u8Pct key
  | .u16Raw => .u16Raw key
  | .u16Pct => .u16Pct key
  | .fp16Eng => .fp16Eng key

/-- A row that reads a sub-value is told by its kind and key (R84). -/
theorem eq_kindRow_of_sub? {i : Instr} {k : Kind} {key : Key} (h : i.sub? = some (k, key)) : i = kindRow k key := by
  cases i <;> cases h <;> rfl

theorem encode_of_sub? {i : Instr} {k : Kind} {key : Key} (h : i.sub? = some (k, key)) :
    encode i = (.descriptor, (encodeDescriptor k.code key).toNat) := by
  cases i <;> cases h <;> rfl

theorem toNat_descKind_le_nine {d : Half} {i : Instr} (h : decodeDescriptor d = .ok i) : (descKind d).toNat ≤ 9 := by
  unfold decodeDescriptor at h
  split at h
  · cases h
  · split at h
    case h_11 => cases h
    all_goals omega

/-- What the descriptor table accepts, and as which row: NONE without a key, or a kind with whatever key (R83, R84,
R88, log 16). -/
theorem decodeDescriptor_eq_ok_iff {d : Half} {i : Instr} :
    decodeDescriptor d = .ok i ↔ descReserved d = 0#4 ∧
      ((descKind d = 0#4 ∧ descKey d = 0#8 ∧ i = .kindNone) ∨
        ∃ k, descKind d = Kind.code k ∧ i.sub? = some (k, descKey d)) := by
  constructor
  · intro h
    have hr : descReserved d = 0#4 := by
      by_contra hne
      simp [decodeDescriptor, hne] at h
    refine ⟨hr, ?_⟩
    rcases kind_of_le_nine _ (toNat_descKind_le_nine h) with h0 | ⟨k, -, hk⟩
    · by_cases hkey : descKey d = 0#8 <;> simp [decodeDescriptor, hr, h0, hkey] at h
      exact .inl ⟨h0, hkey, h.symm⟩
    · obtain ⟨i', hd, hi'⟩ := decodeDescriptor_of_kind hr hk
      cases h.symm.trans hd
      exact .inr ⟨k, hk, hi'⟩
  · rintro ⟨hr, ⟨h0, hkey, rfl⟩ | ⟨k, hk, hi⟩⟩
    · simp [decodeDescriptor, hr, h0, hkey]
    · obtain ⟨i', hd, hi'⟩ := decodeDescriptor_of_kind hr hk
      rw [hd, eq_kindRow_of_sub? hi, eq_kindRow_of_sub? hi']

theorem decodeDescriptor_encodeDescriptor {i : Instr} {k : Kind} {key : Key} (h : i.sub? = some (k, key)) :
    decodeDescriptor (encodeDescriptor k.code key) = .ok i :=
  decodeDescriptor_eq_ok_iff.2 (by simp [h])

theorem decode_encode_of_sub? {i : Instr} {k : Kind} {key : Key} (h : i.sub? = some (k, key)) :
    decode (encode i).1 (encode i).2 = .ok i := by
  rw [encode_of_sub? h, decode_descriptor, decodeDescriptor_encodeDescriptor h]

/-- Settles O1: the rows without an operand by their words, the kind rows by the fields of a descriptor; no row needs a
key other than 0. -/
theorem decodeEncodeRoundTrip : Obligations.DecodeEncodeRoundTrip := by
  unfold Obligations.DecodeEncodeRoundTrip
  intro i _
  cases i with
  | u8Raw | s16Q12 | s16Q8 | u16Q8 | u16P4 | u8Pct | u16Raw | u16Pct | fp16Eng => exact decode_encode_of_sub? rfl
  | fmtP2 | fmtP3 | fmt0x11 | fmt0x14 | fmt0x15 | normIdentity | normIns2 | kindNone | f14VBat | f14Boot | f15VBat
  | f15Boot | f15Env | f15Lux | f15TWater | f15Soil => rfl

/-- Settles O2: an accepted word has no reserved bit set, so its fields are all of it. -/
theorem descriptorDecodingLosesNoBit : Obligations.DescriptorDecodingLosesNoBit := by
  unfold Obligations.DescriptorDecodingLosesNoBit
  intro d i h
  obtain ⟨hr, ⟨h0, hkey, rfl⟩ | ⟨k, hk, hi⟩⟩ := decodeDescriptor_eq_ok_iff.1 h
  · rw [← encodeDescriptor_fields hr, h0, hkey]
    rfl
  · rw [encode_of_sub? hi, ← hk, encodeDescriptor_fields hr]

/-- A word has an instruction exactly when its fields are legal (R83, R84, R88). -/
theorem exists_decodeDescriptor_iff (d : Half) : (∃ i, decodeDescriptor d = .ok i) ↔
    descReserved d = 0#4 ∧ (descKind d).toNat ≤ 9 ∧ (descKind d = 0#4 → descKey d = 0#8) := by
  constructor
  · rintro ⟨i, h⟩
    obtain ⟨hr, ⟨-, hkey, -⟩ | ⟨k, hk, -⟩⟩ := decodeDescriptor_eq_ok_iff.1 h
    · exact ⟨hr, toNat_descKind_le_nine h, fun _ => hkey⟩
    · exact ⟨hr, toNat_descKind_le_nine h, fun h0 => absurd (hk.symm.trans h0) (code_ne_zero k)⟩
  · rintro ⟨hr, hle, hkey⟩
    rcases kind_of_le_nine _ hle with h0 | ⟨k, -, hk⟩
    · exact ⟨.kindNone, decodeDescriptor_eq_ok_iff.2 ⟨hr, .inl ⟨h0, hkey h0, rfl⟩⟩⟩
    · exact (decodeDescriptor_of_kind hr hk).imp fun _ h => h.1

/-- Settles O3: legality of the fields, each read as a number of the word. -/
theorem descriptorAcceptedExactlyWhenLegal : Obligations.DescriptorAcceptedExactlyWhenLegal := by
  unfold Obligations.DescriptorAcceptedExactlyWhenLegal
  intro d
  simp only [decode_descriptor, exists_decodeDescriptor_iff, ← BitVec.toNat_inj, toNat_descReserved, toNat_descKind,
    toNat_descKey, BitVec.toNat_ofNat, Nat.zero_mod]

/-- Settles O5: word by word. -/
theorem sampleWordsDecode : Obligations.SampleWordsDecode := by
  unfold Obligations.SampleWordsDecode
  exact ⟨rfl, rfl, rfl, rfl, rfl, rfl, rfl, rfl, rfl, rfl, rfl⟩

end Sys2Proof.Machine
end

section
/-! PROOF. Where a step of a DECODE runs a row, NONE as a row, and progress of the block's own step (30_encoding.md R85,
R87, R88; 40_dispatch_and_walk.md R100). -/

namespace Sys2Proof.Machine

/-- A DECODE in progress performs what its phase fetches. -/
theorem step_running_instr {p : Phase} {s : State} {i : Instr} (h : Running p s) (hf : fetch s = .instr i) :
    step s = exec i s := by
  rw [step_running h, hf]
  rfl

/-- Settles O9: at each of the four phases the fetch gives the row. -/
theorem stepRunsDecodedInstruction : Obligations.StepRunsDecodedInstruction := by
  unfold Obligations.StepRunsDecodedInstruction
  intro s i
  refine ⟨fun e en h hl hen hrow => step_running_instr h ?_, fun en h hen hd => step_running_instr h ?_,
    fun en src h hen hsrc hd => step_running_instr h ?_, fun en h hen hd => step_running_instr h ?_⟩ <;>
    obtain ⟨-, -, -, -, hp⟩ := h
  · simp [fetch, hp, fetchFormat, hl, hen, hrow]
  · simp [fetch, hp, fetchNorm, hen, hd]
  · simp [fetch, hp, fetchSlot, hen, hsrc, hd]
  · simp [fetch, hp, fetchSub, hen, hd]

/-- Settles O30: the row is the end of its slot. -/
theorem noneEndsItsSlot : Obligations.NoneEndsItsSlot := fun _ => rfl

/-- Between DECODEs the block holds its state (R199). -/
theorem engineStep_held {s : State} (hst : s.out.state ≠ .busy) (hs : s.inputs.start = false) :
    engineStep s = .next s := by
  unfold engineStep
  rw [hs]
  cases ho : s.out.state with
  | busy => exact absurd ho hst
  | idle | done | error => rfl

/-- Settles O54: the block's own step is the next operation of a DECODE, an accepted START, or nothing. -/
theorem blockStepsFromEveryInvariantState : Obligations.BlockStepsFromEveryInvariantState := by
  unfold Obligations.BlockStepsFromEveryInvariantState
  intro s hinv hown hreset hrefused
  have hstep : step s = engineStep s := hown.elim (step_own · hreset) (step_start hreset)
  rw [hstep]
  by_cases hbusy : s.out.state = .busy
  · have hstart : s.inputs.start = false := by simpa [hbusy] using hrefused
    obtain ⟨t, ht, -⟩ := runFetched_inv hinv hbusy
    exact ⟨t, by simp [engineStep, hbusy, hstart, ht]⟩
  · by_cases hstart : s.inputs.start = true
    · obtain ⟨t, ht, -⟩ := acceptStart_inv hinv
      exact ⟨t, (engineStep_startAccepted ⟨hreset, hstart, hbusy⟩).trans ht⟩
    · exact ⟨s, engineStep_held hbusy (Bool.eq_false_iff.2 hstart)⟩

end Sys2Proof.Machine
end

section
/-! PROOF. What a disassembly reads: its lines exactly when the snapshot holds their bytes, or the first sub-value that
does not fit (30_encoding.md R95, R98). -/

namespace Sys2Proof.Machine

/-! Bytes held by a snapshot. -/

/-- The bytes stand at address a and on, within the message. -/
def Snapshot.Holds (sn : Snapshot) (a : Nat) (bytes : List Byte) : Prop :=
  match bytes with
  | [] => a ≤ sn.len.toNat
  | b :: rest => sn.mem.read a = b ∧ sn.Holds (a + 1) rest

theorem holds_nil {sn : Snapshot} {a : Nat} : sn.Holds a [] ↔ a ≤ sn.len.toNat := Iff.rfl

theorem holds_cons {sn : Snapshot} {a : Nat} {b : Byte} {rest : List Byte} :
    sn.Holds a (b :: rest) ↔ sn.mem.read a = b ∧ sn.Holds (a + 1) rest := Iff.rfl

theorem Snapshot.Holds.le {sn : Snapshot} {a : Nat} {bytes : List Byte} (h : sn.Holds a bytes) :
    a + bytes.length ≤ sn.len.toNat := by
  induction bytes generalizing a with
  | nil => exact h
  | cons b rest ih =>
    have := ih h.2
    rw [List.length_cons]
    omega

theorem holds_append {sn : Snapshot} {a : Nat} {xs ys : List Byte} :
    sn.Holds a (xs ++ ys) ↔ sn.Holds a xs ∧ sn.Holds (a + xs.length) ys := by
  induction xs generalizing a with
  | nil => exact ⟨fun h => ⟨(Nat.le_add_right _ _).trans h.le, h⟩, And.right⟩
  | cons b rest ih =>
    rw [List.cons_append, holds_cons, holds_cons, ih, and_assoc, List.length_cons, Nat.add_right_comm, Nat.add_assoc]

/-- Held bytes are the reads of the memory from their address on. -/
theorem Snapshot.Holds.eq_map_read {sn : Snapshot} {a : Nat} {bytes : List Byte} (h : sn.Holds a bytes) :
    bytes = (List.range' a bytes.length).map fun i => sn.mem.read i := by
  induction bytes generalizing a with
  | nil => rfl
  | cons b rest ih =>
    rw [List.length_cons, List.range'_succ, List.map_cons, ← ih h.2, h.1]

theorem holds_of_getD {sn : Snapshot} {a : Nat} {bytes : List Byte} (hle : a + bytes.length ≤ sn.len.toNat)
    (h : ∀ i, sn.mem.read (a + i) = bytes.getD i Memory.unlisted) : sn.Holds a bytes := by
  induction bytes generalizing a with
  | nil => exact hle
  | cons b rest ih =>
    rw [List.length_cons] at hle
    refine ⟨h 0, ih (by omega) fun i => ?_⟩
    rw [Nat.add_assoc, Nat.add_comm 1 i, h]
    rfl

/-- The snapshot of a message holds the message, with its port (R94). -/
theorem holds_of_snapshotOf {bytes : List Byte} {port : Option Byte} {sn : Snapshot}
    (h : snapshotOf bytes port = some sn) :
    sn.Holds 0 bytes ∧ (if sn.portValid then some sn.port else none) = port := by
  unfold snapshotOf at h
  split at h
  · next hlen =>
    cases h
    have hmsg : (BitVec.ofNat 8 bytes.length).toNat = bytes.length := Nat.mod_eq_of_lt (Nat.lt_succ_of_le hlen)
    refine ⟨holds_of_getD (by dsimp only; omega) (read_memoryFrom bytes 0), ?_⟩
    cases port <;> rfl
  · cases h

/-! One sub-value. -/

/-- The raw value is within its kind's width (R95). -/
def SubLine.Fits (sl : SubLine) : Prop := kindWidth sl.kind = .one → sl.raw.toNat < 256

/-- The descriptor word a line of a sub-value is read by (R83, R95). -/
def SubLine.desc (sl : SubLine) : Half := encodeDescriptor sl.kind.code sl.key

theorem SubLine.desc_eq_iff {sl : SubLine} {k : Kind} {key : Key} :
    sl.desc = encodeDescriptor k.code key ↔ sl.kind = k ∧ sl.key = key := by
  constructor
  · intro h
    have hk := congrArg descKind h
    have hkey := congrArg descKey h
    simp only [SubLine.desc, descKind_encodeDescriptor, descKey_encodeDescriptor] at hk hkey
    exact ⟨code_injective hk, hkey⟩
  · rintro ⟨rfl, rfl⟩
    rfl

theorem SubLine.descWidth_desc (sl : SubLine) : descWidth sl.desc = (kindWidth sl.kind).bytes :=
  descWidth_of_kind (by simp [SubLine.desc])

theorem length_assembleSub (sl : SubLine) : (assembleSub sl).length = descWidth sl.desc := by
  rw [SubLine.descWidth_desc]
  unfold assembleSub
  cases kindWidth sl.kind <;> rfl

/-- A raw value is the one of its assembled bytes (R52, R77, R78, R95). -/
theorem memRead_eq_some_iff {sn : Snapshot} {a : Nat} {sl : SubLine} :
    memRead sn a (kindWidth sl.kind) = some sl.raw ↔ sl.Fits ∧ sn.Holds a (assembleSub sl) := by
  have hraw := sl.raw.isLt
  have hb0 := (sn.mem.read a).isLt
  have hb1 := (sn.mem.read (a + 1)).isLt
  unfold assembleSub SubLine.Fits
  cases kindWidth sl.kind with
  | one =>
    simp only [holds_cons, holds_nil, ← BitVec.toNat_inj, BitVec.extractLsb'_toNat, Nat.shiftRight_zero, forall_const]
    by_cases hle : a + 1 ≤ sn.len.toNat
    · rw [memRead_one hle, Option.some_inj, ← BitVec.toNat_inj, toNat_setWidth_byte]
      omega
    · have hnone : memRead sn a .one = none := memRead_eq_none.2 (Nat.lt_of_not_le hle)
      simp [hnone, hle]
  | two =>
    simp only [holds_cons, holds_nil, ← BitVec.toNat_inj, BitVec.extractLsb'_toNat, Nat.shiftRight_eq_div_pow,
      reduceCtorEq, false_implies, true_and]
    by_cases hle : a + 2 ≤ sn.len.toNat
    · rw [memRead_two hle, Option.some_inj, ← BitVec.toNat_inj, toNat_bigEndian]
      omega
    · have hnone : memRead sn a .two = none := memRead_eq_none.2 (Nat.lt_of_not_le hle)
      simp [hnone, hle]

/-! The sub-values of a slot. -/

/-- The leading descriptors with a kind (R85). -/
def namedDescs (descs : List Half) : List Half := descs.takeWhile fun d => descKind d != 0#4

theorem namedDescs_of_none {d : Half} (h : descKind d = 0#4) (rest : List Half) : namedDescs (d :: rest) = [] :=
  List.takeWhile_cons_of_neg (by simp [h])

theorem namedDescs_of_kind (k : Kind) (key : Key) (rest : List Half) :
    namedDescs (encodeDescriptor k.code key :: rest) = encodeDescriptor k.code key :: namedDescs rest :=
  List.takeWhile_cons_of_pos (by simp [code_ne_zero])

/-- A legal descriptor is NONE, or the encoding of a row that reads a sub-value (R83, R84). -/
theorem DescLegal.none_or_encoded {d : Half} (h : DescLegal d) :
    (descKind d = 0#4 ∧ decodeDescriptor d = .ok .kindNone) ∨
      ∃ k key i, d = encodeDescriptor k.code key ∧ decodeDescriptor d = .ok i ∧ i.sub? = some (k, key) := by
  refine h.imp_right ?_
  rintro ⟨k, i, hk, -, hd, hi⟩
  have hr := (decodeDescriptor_eq_ok_iff.1 hd).1
  exact ⟨k, descKey d, i, by rw [← hk, encodeDescriptor_fields hr], hd, hi⟩

section Cons
variable {sn : Snapshot} {bit : Nat} {d : Half} {rest : List Half} {cur : Nat} {i : Instr} {k : Kind} {key : Key}

theorem disassembleSubs_end (hd : decodeDescriptor d = .ok i) (hi : i.sub? = none) :
    disassembleSubs sn bit (d :: rest) cur = .ok ([], cur) := by
  simp [disassembleSubs, hd, hi, Except.toOption]

theorem disassembleSubs_truncated (hd : decodeDescriptor d = .ok i) (hi : i.sub? = some (k, key))
    (hm : memRead sn cur (kindWidth k) = none) :
    disassembleSubs sn bit (d :: rest) cur =
      .error ⟨.truncatedBuffer, BitVec.ofNat 4 bit, BitVec.ofNat 8 cur, BitVec.ofNat 2 (kindWidth k).bytes⟩ := by
  simp [disassembleSubs, hd, hi, hm, Except.toOption]

theorem disassembleSubs_read (hd : decodeDescriptor d = .ok i) (hi : i.sub? = some (k, key)) {raw : Half}
    (hm : memRead sn cur (kindWidth k) = some raw) :
    disassembleSubs sn bit (d :: rest) cur =
      (disassembleSubs sn bit rest (cur + (kindWidth k).bytes)).map fun p => (⟨key, k, raw⟩ :: p.1, p.2) := by
  simp only [disassembleSubs, hd, hi, hm, Except.toOption, Option.bind_some]
  cases disassembleSubs sn bit rest (cur + (kindWidth k).bytes) <;> rfl

end Cons

theorem Except.map_eq_ok_iff {ε α β : Type} {f : α → β} {r : Except ε α} {b : β} :
    r.map f = .ok b ↔ ∃ a, r = .ok a ∧ f a = b := by
  cases r <;> simp [Except.map]

theorem Except.map_eq_error_iff {ε α β : Type} {f : α → β} {r : Except ε α} {x : ε} :
    r.map f = .error x ↔ r = .error x := by
  cases r <;> simp [Except.map]

/-- The lines are sub-values of the descriptors, in order, and their bytes stand at the cursor (R95, R98). -/
structure SubsAt (sn : Snapshot) (ds : List Half) (cur : Nat) (subs : List SubLine) : Prop where
  descs : subs.map SubLine.desc = ds
  fits : ∀ sl ∈ subs, sl.Fits
  holds : sn.Holds cur (subs.flatMap assembleSub)

theorem length_flatMap_assembleSub (subs : List SubLine) :
    (subs.flatMap assembleSub).length = ((subs.map SubLine.desc).map descWidth).sum := by
  simp [List.length_flatMap, length_assembleSub, Function.comp_def]

/-- The lines of the sub-values are as long as their widths say (R86, R95). -/
theorem SubsAt.length {sn : Snapshot} {ds : List Half} {cur : Nat} {subs : List SubLine} (h : SubsAt sn ds cur subs) :
    (subs.flatMap assembleSub).length = (ds.map descWidth).sum := by
  rw [length_flatMap_assembleSub, h.descs]

theorem SubsAt.le {sn : Snapshot} {ds : List Half} {cur : Nat} {subs : List SubLine} (h : SubsAt sn ds cur subs) :
    cur + (ds.map descWidth).sum ≤ sn.len.toNat :=
  h.length ▸ h.holds.le

theorem subsAt_nil {sn : Snapshot} {cur : Nat} {subs : List SubLine} :
    SubsAt sn [] cur subs ↔ subs = [] ∧ cur ≤ sn.len.toNat := by
  constructor
  · intro h
    obtain rfl := List.map_eq_nil_iff.1 h.descs
    exact ⟨rfl, h.holds⟩
  · rintro ⟨rfl, h⟩
    exact ⟨rfl, by simp, h⟩

/-- A slot that ends at once has no line and leaves the cursor. -/
theorem ok_nil_iff_subsAt {sn : Snapshot} {cur : Nat} (hcur : cur ≤ sn.len.toNat) {subs : List SubLine} {last : Nat} :
    (.ok ([], cur) : Except ErrorRecord (List SubLine × Nat)) = .ok (subs, last) ↔
      SubsAt sn [] cur subs ∧ last = cur + (([] : List Half).map descWidth).sum := by
  simp [subsAt_nil, hcur, eq_comm]

theorem subsAt_cons {sn : Snapshot} {d : Half} {ds : List Half} {cur : Nat} {subs : List SubLine} :
    SubsAt sn (d :: ds) cur subs ↔ ∃ sl rest, subs = sl :: rest ∧ sl.desc = d ∧
      memRead sn cur (kindWidth sl.kind) = some sl.raw ∧ SubsAt sn ds (cur + (kindWidth sl.kind).bytes) rest := by
  constructor
  · rintro ⟨hd, hf, hh⟩
    obtain ⟨sl, rest, rfl, hsl, hrest⟩ := List.map_eq_cons_iff.1 hd
    obtain ⟨hfit, hfits⟩ := List.forall_mem_cons.1 hf
    rw [List.flatMap_cons, holds_append, length_assembleSub, SubLine.descWidth_desc] at hh
    exact ⟨sl, rest, rfl, hsl, memRead_eq_some_iff.2 ⟨hfit, hh.1⟩, hrest, hfits, hh.2⟩
  · rintro ⟨sl, rest, rfl, rfl, hm, hd, hf, hh⟩
    obtain ⟨hfit, hhold⟩ := memRead_eq_some_iff.1 hm
    refine ⟨by rw [List.map_cons, hd], List.forall_mem_cons.2 ⟨hfit, hf⟩, ?_⟩
    rw [List.flatMap_cons, holds_append, length_assembleSub, SubLine.descWidth_desc]
    exact ⟨hhold, hh⟩

/-- A slot is disassembled to the lines whose bytes the snapshot holds at the cursor, and to no others (R98). -/
theorem disassembleSubs_eq_ok_iff {sn : Snapshot} {bit : Nat} {descs : List Half} (hlegal : ∀ d ∈ descs, DescLegal d)
    {cur : Nat} (hcur : cur ≤ sn.len.toNat) {subs : List SubLine} {last : Nat} :
    disassembleSubs sn bit descs cur = .ok (subs, last) ↔
      SubsAt sn (namedDescs descs) cur subs ∧ last = cur + ((namedDescs descs).map descWidth).sum := by
  induction descs generalizing cur subs last with
  | nil => exact ok_nil_iff_subsAt hcur
  | cons d rest ih =>
    obtain ⟨hd, hrest⟩ := List.forall_mem_cons.1 hlegal
    rcases hd.none_or_encoded with ⟨h0, hd⟩ | ⟨k, key, i, rfl, hd, hi⟩
    · rw [disassembleSubs_end hd rfl, namedDescs_of_none h0]
      exact ok_nil_iff_subsAt hcur
    · have hw : descWidth (encodeDescriptor k.code key) = (kindWidth k).bytes := descWidth_of_kind (by simp)
      rw [namedDescs_of_kind, subsAt_cons, List.map_cons, List.sum_cons, hw]
      simp only [SubLine.desc_eq_iff]
      cases hm : memRead sn cur (kindWidth k) with
      | none =>
        rw [disassembleSubs_truncated hd hi hm]
        refine iff_of_false nofun ?_
        rintro ⟨⟨sl, subs', -, ⟨rfl, -⟩, hm', -⟩, -⟩
        cases hm.symm.trans hm'
      | some raw =>
        have hcur' := memRead_some_le hm
        rw [disassembleSubs_read hd hi hm, Except.map_eq_ok_iff]
        constructor
        · rintro ⟨⟨subs', last'⟩, hr, he⟩
          cases he
          obtain ⟨hs, rfl⟩ := (ih hrest hcur').1 hr
          exact ⟨⟨⟨key, k, raw⟩, subs', rfl, ⟨rfl, rfl⟩, hm, hs⟩, Nat.add_assoc _ _ _⟩
        · rintro ⟨⟨sl, subs', rfl, ⟨rfl, rfl⟩, hm', hs⟩, rfl⟩
          cases hm.symm.trans hm'
          refine ⟨(subs', _), (ih hrest hcur').2 ⟨hs, rfl⟩, ?_⟩
          simp [Nat.add_assoc]

/-- The record of the first of the descriptors, read from address a on, whose sub-value does not fit (R112, R183). -/
def TruncatedIn (sn : Snapshot) (bit a : Nat) (ds : List Half) (x : ErrorRecord) : Prop :=
  ∃ before d after, ds = before ++ d :: after ∧ a + (before.map descWidth).sum ≤ sn.len.toNat ∧
    sn.len.toNat < a + (before.map descWidth).sum + descWidth d ∧
    x = ⟨.truncatedBuffer, BitVec.ofNat 4 bit, BitVec.ofNat 8 (a + (before.map descWidth).sum),
      BitVec.ofNat 2 (descWidth d)⟩

theorem TruncatedIn.cons {sn : Snapshot} {bit a : Nat} {d : Half} {ds : List Half} {x : ErrorRecord}
    (h : TruncatedIn sn bit (a + descWidth d) ds x) : TruncatedIn sn bit a (d :: ds) x := by
  obtain ⟨before, d', after, rfl, hle, hlt, hx⟩ := h
  refine ⟨d :: before, d', after, rfl, ?_⟩
  rw [List.map_cons, List.sum_cons, ← Nat.add_assoc]
  exact ⟨hle, hlt, hx⟩

theorem disassembleSubs_error {sn : Snapshot} {bit : Nat} {descs : List Half} (hlegal : ∀ d ∈ descs, DescLegal d)
    {cur : Nat} (hcur : cur ≤ sn.len.toNat) {x : ErrorRecord} (h : disassembleSubs sn bit descs cur = .error x) :
    TruncatedIn sn bit cur (namedDescs descs) x := by
  induction descs generalizing cur with
  | nil => cases h
  | cons d rest ih =>
    obtain ⟨hd, hrest⟩ := List.forall_mem_cons.1 hlegal
    rcases hd.none_or_encoded with ⟨h0, hd⟩ | ⟨k, key, i, rfl, hd, hi⟩
    · rw [disassembleSubs_end hd rfl] at h
      cases h
    · have hw : descWidth (encodeDescriptor k.code key) = (kindWidth k).bytes := descWidth_of_kind (by simp)
      rw [namedDescs_of_kind]
      cases hm : memRead sn cur (kindWidth k) with
      | none =>
        rw [disassembleSubs_truncated hd hi hm] at h
        cases h
        exact ⟨[], _, _, rfl, hcur, by simpa [hw] using memRead_eq_none.1 hm, by simp [hw]⟩
      | some raw =>
        rw [disassembleSubs_read hd hi hm, Except.map_eq_error_iff] at h
        exact (hw ▸ ih hrest (memRead_some_le hm) h : TruncatedIn sn bit (cur + descWidth _) _ x).cons

/-! The lines of a message. -/

/-- The field bytes of a line (R95). -/
def BitLine.bytes (l : BitLine) : List Byte := l.subs.flatMap assembleSub

/-- The sub-values of the set bits of a list, in order (R75). -/
def gatedOf (en : Entry) (g : Flags9) (bits : List Nat) : List Half :=
  (bits.filter fun k => g.getLsbD k).flatMap fun k => (en.slot k).subDescs

/-- A line reads the sub-values of its slot, each within its width (R95). -/
def BitLine.ReadsSlot (l : BitLine) (en : Entry) : Prop :=
  l.subs.map SubLine.desc = (en.slot l.bit).subDescs ∧ ∀ sl ∈ l.subs, sl.Fits

/-- The lines are those of the set bits of a list, in order, and their bytes stand at the cursor (R95, R98). -/
structure LinesAt (sn : Snapshot) (en : Entry) (g : Flags9) (bits : List Nat) (cur : Nat) (lines : List BitLine) :
    Prop where
  bits : lines.map BitLine.bit = bits.filter fun k => g.getLsbD k
  reads : ∀ l ∈ lines, l.ReadsSlot en
  holds : sn.Holds cur (lines.flatMap BitLine.bytes)

/-- The declared length of the lines is that of their sub-values (R76). -/
theorem LinesAt.length {sn : Snapshot} {en : Entry} {g : Flags9} {bits : List Nat} {cur : Nat} {lines : List BitLine}
    (h : LinesAt sn en g bits cur lines) :
    (lines.flatMap BitLine.bytes).length = ((gatedOf en g bits).map descWidth).sum := by
  have hdescs : ∀ ls : List BitLine, (∀ l ∈ ls, l.ReadsSlot en) → (ls.flatMap BitLine.bytes).length =
      (((ls.map BitLine.bit).flatMap fun k => (en.slot k).subDescs).map descWidth).sum := by
    intro ls hls
    induction ls with
    | nil => rfl
    | cons l rest ih =>
      obtain ⟨hl, hrest⟩ := List.forall_mem_cons.1 hls
      rw [List.flatMap_cons, List.length_append, ih hrest, BitLine.bytes, length_flatMap_assembleSub, hl.1]
      simp
  rw [hdescs lines h.reads, h.bits, gatedOf]

section Bits
variable {sn : Snapshot} {en : Entry} {g : Flags9} {k : Nat} {rest : List Nat} {cur : Nat}

theorem disassembleBits_clear (hk : g.getLsbD k = false) :
    disassembleBits sn en g (k :: rest) cur = disassembleBits sn en g rest cur := by
  simp [disassembleBits, hk]

theorem disassembleBits_set (hk : g.getLsbD k = true) :
    disassembleBits sn en g (k :: rest) cur =
      (disassembleSubs sn k (en.slot k).descs cur).bind fun p =>
        (disassembleBits sn en g rest p.2).map fun lines => ⟨k, p.1⟩ :: lines := by
  simp only [disassembleBits, hk, if_true]
  cases disassembleSubs sn k (en.slot k).descs cur with
  | error x => rfl
  | ok p => dsimp only [Except.bind]; cases disassembleBits sn en g rest p.2 <;> rfl

theorem linesAt_clear (hk : g.getLsbD k = false) {lines : List BitLine} :
    LinesAt sn en g (k :: rest) cur lines ↔ LinesAt sn en g rest cur lines := by
  have hf : (k :: rest).filter (fun k => g.getLsbD k) = rest.filter fun k => g.getLsbD k :=
    List.filter_cons_of_neg (by simp [hk])
  exact ⟨fun h => ⟨hf ▸ h.bits, h.reads, h.holds⟩, fun h => ⟨hf ▸ h.bits, h.reads, h.holds⟩⟩

theorem linesAt_set (hk : g.getLsbD k = true) {lines : List BitLine} :
    LinesAt sn en g (k :: rest) cur lines ↔ ∃ subs lines', lines = ⟨k, subs⟩ :: lines' ∧
      SubsAt sn (en.slot k).subDescs cur subs ∧
      LinesAt sn en g rest (cur + ((en.slot k).subDescs.map descWidth).sum) lines' := by
  have hf : (k :: rest).filter (fun k => g.getLsbD k) = k :: rest.filter fun k => g.getLsbD k :=
    List.filter_cons_of_pos hk
  constructor
  · rintro ⟨hb, hr, hh⟩
    obtain ⟨⟨k', subs⟩, lines', rfl, rfl, hbits⟩ := List.map_eq_cons_iff.1 (hb.trans hf)
    obtain ⟨⟨hd, hfit⟩, hreads⟩ := List.forall_mem_cons.1 hr
    rw [List.flatMap_cons, holds_append, BitLine.bytes, length_flatMap_assembleSub, hd] at hh
    exact ⟨subs, lines', rfl, ⟨hd, hfit, hh.1⟩, hbits, hreads, hh.2⟩
  · rintro ⟨subs, lines', rfl, ⟨hd, hfit, hhold⟩, hb, hr, hh⟩
    refine ⟨by rw [hf, List.map_cons, hb], List.forall_mem_cons.2 ⟨⟨hd, hfit⟩, hr⟩, ?_⟩
    rw [List.flatMap_cons, holds_append, BitLine.bytes, length_flatMap_assembleSub, hd]
    exact ⟨hhold, hh⟩

end Bits

section Lines
variable {sn : Snapshot} {en : Entry} {g : Flags9} (hlegal : ∀ k, ∀ d ∈ (en.slot k).descs, DescLegal d)
include hlegal

/-- A message is disassembled to the lines whose bytes the snapshot holds at the cursor, and to no others (R98). -/
theorem disassembleBits_eq_ok_iff {bits : List Nat} {cur : Nat} (hcur : cur ≤ sn.len.toNat) {lines : List BitLine} :
    disassembleBits sn en g bits cur = .ok lines ↔ LinesAt sn en g bits cur lines := by
  induction bits generalizing cur lines with
  | nil =>
    constructor
    · intro h
      cases h
      exact ⟨rfl, by simp, hcur⟩
    · intro h
      rw [List.map_eq_nil_iff.1 h.bits]
      rfl
  | cons k rest ih =>
    cases hk : g.getLsbD k with
    | false => rw [disassembleBits_clear hk, linesAt_clear hk, ih hcur]
    | true =>
      rw [disassembleBits_set hk, linesAt_set hk]
      have hslot {subs last} := disassembleSubs_eq_ok_iff (bit := k) (hlegal k) hcur (subs := subs) (last := last)
      constructor
      · intro h
        cases hs : disassembleSubs sn k (en.slot k).descs cur with
        | error x => rw [hs] at h; cases h
        | ok p =>
          obtain ⟨subs, last⟩ := p
          obtain ⟨hsubs, rfl⟩ := hslot.1 hs
          rw [hs] at h
          obtain ⟨lines', hl, rfl⟩ := Except.map_eq_ok_iff.1 h
          exact ⟨subs, lines', rfl, hsubs, (ih hsubs.le).1 hl⟩
      · rintro ⟨subs, lines', rfl, hsubs, hl⟩
        rw [hslot.2 ⟨hsubs, rfl⟩]
        exact Except.map_eq_ok_iff.2 ⟨lines', (ih hsubs.le).2 hl, rfl⟩

theorem disassembleBits_error {bits : List Nat} {cur : Nat} (hcur : cur ≤ sn.len.toNat) {x : ErrorRecord}
    (h : disassembleBits sn en g bits cur = .error x) :
    ∃ before k after, bits = before ++ k :: after ∧ g.getLsbD k = true ∧
      TruncatedIn sn k (cur + ((gatedOf en g before).map descWidth).sum) (en.slot k).subDescs x := by
  induction bits generalizing cur with
  | nil => cases h
  | cons k rest ih =>
    cases hk : g.getLsbD k with
    | false =>
      rw [disassembleBits_clear hk] at h
      obtain ⟨before, k', after, rfl, hk', hx⟩ := ih hcur h
      refine ⟨k :: before, k', after, rfl, hk', ?_⟩
      rwa [gatedOf, List.filter_cons_of_neg (by simp [hk])]
    | true =>
      rw [disassembleBits_set hk] at h
      cases hs : disassembleSubs sn k (en.slot k).descs cur with
      | error y =>
        rw [hs] at h
        cases h
        exact ⟨[], k, rest, rfl, hk, disassembleSubs_error (hlegal k) hcur hs⟩
      | ok p =>
        obtain ⟨subs, last⟩ := p
        obtain ⟨hsubs, rfl⟩ := (disassembleSubs_eq_ok_iff (hlegal k) hcur).1 hs
        rw [hs] at h
        obtain ⟨before, k', after, rfl, hk', hx⟩ := ih hsubs.le (Except.map_eq_error_iff.1 h)
        refine ⟨k :: before, k', after, rfl, hk', ?_⟩
        rw [gatedOf, List.filter_cons_of_pos hk, List.flatMap_cons, List.map_append, List.sum_append, ← Nat.add_assoc]
        exact hx

end Lines

end Sys2Proof.Machine
end

section
/-! PROOF. Disassembly inverts assembly: a well-formed message is the one its bytes disassemble to (30_encoding.md R95,
R98). -/

namespace Sys2Proof.Machine

/-! The check of the flags (R109). -/

/-- A slot with a sub-value is assigned (R85, R100). -/
theorem assigned_of_subDescs_ne_nil {en : Entry} {k : Nat} (h : (en.slot k).subDescs ≠ []) : en.assigned k = true := by
  by_contra hne
  have h0 : descKind (en.slot k).d0 = 0#4 := by simpa [Entry.assigned] using hne
  exact h (namedDescs_of_none h0 _)

/-- Bit 8 has no slot (R109). -/
theorem le_seven_of_assigned {en : Entry} {k : Nat} (h : en.assigned k = true) : k ≤ 7 := by
  by_contra hk
  match k, hk with
  | j + 8, _ => exact absurd h (by simp [Entry.assigned, Entry.slot, Slot.unassigned, descKind])

theorem assigned_iff {en : Entry} {k : Nat} : en.assigned k = true ↔ k ≤ 7 ∧ descKind (en.slot k).d0 ≠ 0#4 :=
  ⟨fun h => ⟨le_seven_of_assigned h, by simpa [Entry.assigned] using h⟩, fun h => by simpa [Entry.assigned] using h.2⟩

/-- The check passes exactly when every set bit has a slot (R109). -/
theorem firstUnassigned_eq_none_iff {en : Entry} {g : Flags9} :
    firstUnassigned en g = none ↔ ∀ k, k < 9 → g.getLsbD k = true → en.assigned k = true := by
  have hbits : [0, 1, 2, 3, 4, 5, 6, 7, 8] = List.range 9 := rfl
  rw [firstUnassigned, hbits, List.find?_range_eq_none]
  simp [unassignedAt, imp_iff_not_or]

/-- The check reports the lowest set bit without a slot (R109). -/
theorem firstUnassigned_eq_some_iff {en : Entry} {g : Flags9} {k : Nat} :
    firstUnassigned en g = some k ↔ k < 9 ∧ g.getLsbD k = true ∧ en.assigned k = false ∧
      ∀ j, j < k → g.getLsbD j = true → en.assigned j = true := by
  have hbits : [0, 1, 2, 3, 4, 5, 6, 7, 8] = List.range 9 := rfl
  rw [firstUnassigned, hbits, List.find?_range_eq_some]
  simp [unassignedAt, imp_iff_not_or, and_assoc, and_left_comm]

/-! Disassembly by the order of its checks (R98). -/

/-- The annotated message of a snapshot for the entry found and the lines read (R98). -/
def messageRead (name : String) (sn : Snapshot) (en : Entry) (lines : List BitLine) : AnnotatedMessage :=
  { name := name
    port := if sn.portValid then some sn.port else none
    fmt := if headerByteEn en.header then some (sn.mem.read 0) else none
    flags := sn.mem.read (if headerByteEn en.header then 1 else 0)
    lines := lines }

theorem disassemble_unknown (name : String) {c : Configuration} {sn : Snapshot} (h : lookup c sn = none) :
    disassemble name c sn = .error ⟨.unknownFormat, 0xF#4, 0#8, 0#2⟩ := by
  simp [disassemble, h]

section Found
variable (name : String) {c : Configuration} {sn : Snapshot} {e n : Nat} {en : Entry} (hl : lookup c sn = some e)
  (hen : c.entries[e]? = some en) (hn : n = if headerByteEn en.header then 1 else 0)
include hl hen hn

theorem disassemble_truncated (hlen : sn.len.toNat < n + 1) :
    disassemble name c sn = .error ⟨.truncatedBuffer, 0xF#4, BitVec.ofNat 8 n, 1#2⟩ := by
  subst hn
  have hm : memRead sn (if headerByteEn en.header then 1 else 0) .one = none := memRead_eq_none.2 hlen
  simp [disassemble, hl, hen, hm]

theorem disassemble_unassigned (hlen : n + 1 ≤ sn.len.toNat) {k : Nat}
    (hk : firstUnassigned en (normalise en (sn.mem.read n)) = some k) :
    disassemble name c sn = .error ⟨.unassignedFlag, BitVec.ofNat 4 k, BitVec.ofNat 8 (n + 1), 0#2⟩ := by
  subst hn
  simp [disassemble, hl, hen, memRead_one hlen, hk]

theorem disassemble_assigned (hlen : n + 1 ≤ sn.len.toNat)
    (hk : firstUnassigned en (normalise en (sn.mem.read n)) = none) :
    disassemble name c sn =
      (disassembleBits sn en (normalise en (sn.mem.read n)) (List.range 8) (n + 1)).map (messageRead name sn en) := by
  subst hn
  simp only [disassemble, hl, hen, Option.bind_some, memRead_one hlen, BitVec.setWidth_setWidth_of_le,
    BitVec.setWidth_eq, hk, Nat.reduceLeDiff]
  change _ = (disassembleBits _ _ _ [0, 1, 2, 3, 4, 5, 6, 7] _).map _
  cases disassembleBits sn en (normalise en _) [0, 1, 2, 3, 4, 5, 6, 7] _ <;> rfl

end Found

/-! Well-formed messages. -/

section WellFormed
variable {m : AnnotatedMessage} {en : Entry} (h : m.WellFormedFor en)
include h

/-- Every set flag bit of a well-formed message has an assigned slot: its line reads it (R95). -/
theorem AnnotatedMessage.WellFormedFor.assigned {k : Nat} (hk : k < 9) (hg : (normalise en m.flags).getLsbD k = true) :
    en.assigned k = true := by
  obtain ⟨-, hbits, hlines, -⟩ := h
  have hmem : k ∈ m.lines.map BitLine.bit := hbits.mem_iff.2 (List.mem_filter.2 ⟨List.mem_range.2 hk, hg⟩)
  obtain ⟨l, hl, rfl⟩ := List.mem_map.1 hmem
  obtain ⟨hne, hdescs⟩ := hlines l hl
  exact assigned_of_subDescs_ne_nil (hdescs ▸ fun hnil => hne (List.map_eq_nil_iff.1 hnil))

/-- In ascending k the lines are those of the set bits below 8. -/
theorem AnnotatedMessage.WellFormedFor.bits_ascending :
    (ascendingLines m.lines).map BitLine.bit = (List.range 8).filter fun k => (normalise en m.flags).getLsbD k := by
  have h8 : (normalise en m.flags).getLsbD 8 = false := by
    by_contra hg
    exact absurd (le_seven_of_assigned (h.assigned (by decide) (Bool.not_eq_false _ ▸ hg))) (by decide)
  obtain ⟨-, hbits, -, -⟩ := h
  rw [List.range_succ, List.filter_append, List.filter_cons_of_neg (ne_true_of_eq_false h8), List.filter_nil,
    List.append_nil] at hbits
  have hrange : ((List.range 8).filter fun k => (normalise en m.flags).getLsbD k).Pairwise (· < ·) :=
    List.pairwise_lt_range.sublist List.filter_sublist
  have hsorted := ascendingLines_strict (hbits.nodup_iff.2 (hrange.imp Nat.ne_of_lt))
  exact (((ascendingLines_perm m.lines).map _).trans hbits).eq_of_pairwise
    (fun _ _ _ _ hxy hyx => absurd hyx (Nat.lt_asymm hxy)) hsorted hrange

/-- A snapshot that holds a well-formed message at its port disassembles to it, in ascending k (R95, R98). -/
theorem AnnotatedMessage.WellFormedFor.disassemble {c : Configuration} {sn : Snapshot} {e : Nat}
    (hc : c.wellFormed = true) (hen : c.entries[e]? = some en) (hl : lookup c sn = some e)
    (hholds : sn.Holds 0 (assemble m)) (hport : (if sn.portValid then some sn.port else none) = m.port) :
    Machine.disassemble m.name c sn = .ok { m with lines := ascendingLines m.lines } := by
  have hlines : ∀ l ∈ ascendingLines m.lines, l.ReadsSlot en := fun l hmem => by
    obtain ⟨-, -, hdescs, hfits⟩ := h
    have hmem := (ascendingLines_perm m.lines).mem_iff.1 hmem
    exact ⟨(hdescs l hmem).2, hfits l hmem⟩
  obtain ⟨n, hn, hfmtlen, hfmt⟩ : ∃ n, (n = if headerByteEn en.header then 1 else 0) ∧ m.fmt.toList.length = n ∧
      (sn.Holds 0 m.fmt.toList → (if headerByteEn en.header then some (sn.mem.read 0) else none) = m.fmt) := by
    obtain ⟨hkeyed, -⟩ := h
    rw [← hkeyed]
    cases m.fmt with
    | none => exact ⟨0, rfl, rfl, fun _ => rfl⟩
    | some b => exact ⟨1, rfl, rfl, fun hb => congrArg some hb.1⟩
  rw [assemble, holds_append, holds_append, List.length_append, hfmtlen, Nat.zero_add, Nat.zero_add] at hholds
  obtain ⟨⟨hf, hflags, hlen⟩, hfields⟩ := hholds
  have hcheck : firstUnassigned en (normalise en (sn.mem.read n)) = none :=
    firstUnassigned_eq_none_iff.2 fun k hk hg => h.assigned hk (hflags ▸ hg)
  have hat : LinesAt sn en (normalise en (sn.mem.read n)) (List.range 8) (n + 1) (ascendingLines m.lines) :=
    ⟨hflags ▸ h.bits_ascending, hlines, hfields⟩
  rw [disassemble_assigned m.name hl hen hn hlen hcheck,
    (disassembleBits_eq_ok_iff (slot_descLegal_of_wellFormed hc (List.mem_of_getElem? hen)) hlen).2 hat, Except.map,
    messageRead, hport, hfmt hf, ← hn, hflags]

end WellFormed

/-- Settles O58: the snapshot holds the assembly, whose field bytes are those of the lines in ascending k. -/
theorem disassemblyInvertsAssembly : Obligations.DisassemblyInvertsAssembly := by
  unfold Obligations.DisassemblyInvertsAssembly
  intro c e en m sn hc hen hm hsn hl
  obtain ⟨hholds, hport⟩ := holds_of_snapshotOf hsn
  have hdis := hm.disassemble hc hen hl hholds hport
  refine ⟨⟨ascendingLines m.lines, ascendingLines_perm m.lines, ?_, hdis⟩, fun hsorted => ?_⟩
  · rw [hm.bits_ascending]
    exact List.pairwise_lt_range.sublist List.filter_sublist
  · rw [hdis, ascendingLines_of_sorted hsorted]

end Sys2Proof.Machine
end

section
/-! PROOF. The whole DECODE by the order of its checks, its walk simulated by the disassembly (30_encoding.md R98;
60_exceptions.md R186). -/

namespace Sys2Proof.Machine

/-! The walk and the disassembly of the same bits. -/

/-- The error a record holds, raised (R184). -/
def ErrorRecord.raise (x : ErrorRecord) (s : State) : State := raiseError x.code x.bit x.cursor x.need s

/-- A DECODE inside the walk over entry en with flags g, no error raised and the cursor at address a. -/
structure Reading (sn : Snapshot) (en : Entry) (g : Flags9) (a : Nat) (s : State) : Prop where
  snap : s.snap = sn
  entry : s.entry? = some en
  flagN : s.engine.flagN = g
  going : s.raised = false
  cur : s.engine.cur.toNat = a

theorem Reading.cur_eq {sn : Snapshot} {en : Entry} {g : Flags9} {a : Nat} {s : State} (h : Reading sn en g a s) :
    s.engine.cur = BitVec.ofNat 8 a := by
  rw [← h.cur, BitVec.ofNat_toNat, BitVec.setWidth_eq]

theorem afterRead_cur {s : State} {k : Kind} {raw : Half} (key : Key)
    (hm : memRead s.snap s.engine.cur.toNat (kindWidth k) = some raw) :
    (afterRead k key raw s).engine.cur.toNat = s.engine.cur.toNat + (kindWidth k).bytes := by
  have hle := memRead_some_le hm
  have hlen := s.snap.len.isLt
  simp only [afterRead, BitVec.toNat_add, BitVec.toNat_ofNat, Nat.add_mod_mod]
  exact Nat.mod_eq_of_lt (by omega)

/-- A part of the DECODE from outputs o runs as a part of the disassembly: it goes on in a state as Q says where lines
are read, and raises the record where one is found; neither has written an output before (R98). -/
def Simulates {α : Type} (Q : α → State → Prop) (o : Outputs) (d : Except ErrorRecord α) (r : Result) : Prop :=
  match d with
  | .ok a => ∃ t, r = .next t ∧ Q a t ∧ t.out = o
  | .error x => x.code ≠ .none ∧ ∃ u, r = .next (x.raise u) ∧ u.out = o

theorem Simulates.map {α β : Type} {Q : α → State → Prop} {Q' : β → State → Prop} {o : Outputs}
    {d : Except ErrorRecord α} {r : Result} (h : Simulates Q o d r) {f : α → β} (hf : ∀ a t, Q a t → Q' (f a) t) :
    Simulates Q' o (d.map f) r := by
  cases d with
  | ok a =>
    obtain ⟨t, hr, ht, hout⟩ := h
    exact ⟨t, hr, hf a t ht, hout⟩
  | error x => exact h

theorem Simulates.thenRun {α β : Type} {Q : α → State → Prop} {Q' : β → State → Prop} {o : Outputs}
    {d : Except ErrorRecord α} {r : Result} (h : Simulates Q o d r) {f : α → Except ErrorRecord β}
    {run : State → Result} (hgoing : ∀ a t, Q a t → t.raised = false)
    (hf : ∀ a t, d = .ok a → Q a t → t.out = o → Simulates Q' o (f a) (run t)) :
    Simulates Q' o (d.bind f) (Machine.thenRun r run) := by
  cases d with
  | ok a =>
    obtain ⟨t, rfl, ht, hout⟩ := h
    rw [thenRun_next_going run (hgoing a t ht)]
    exact hf a t rfl ht hout
  | error x =>
    obtain ⟨hx, u, rfl, hout⟩ := h
    exact ⟨hx, u, thenRun_next_raised run (by simpa [State.raised, ErrorRecord.raise] using hx), hout⟩

section Walk
variable {sn : Snapshot} {en : Entry} {g : Flags9} {a : Nat} {s : State}

/-- The descriptors of a slot run as they are disassembled (R112). -/
theorem Reading.runSubs {descs : List Half} (hlegal : ∀ d ∈ descs, DescLegal d) {bit : Nat} (j : Nat)
    (h : Reading sn en g a s) (hbit : s.engine.bit = BitVec.ofNat 4 bit) :
    Simulates (fun p => Reading sn en g p.2) s.out (disassembleSubs sn bit descs a)
      (finish (Machine.runSubs descs j s) endSlot) := by
  induction descs generalizing a j s with
  | nil => exact ⟨_, rfl, { h with }, rfl⟩
  | cons d rest ih =>
    obtain ⟨hd, hrest⟩ := List.forall_mem_cons.1 hlegal
    rcases hd.none_or_encoded with ⟨-, hd⟩ | ⟨k, key, i, -, hd, hi⟩
    · rw [disassembleSubs_end hd rfl, runSubs_end rest j hd rfl]
      exact ⟨_, rfl, { h with }, rfl⟩
    · obtain ⟨rfl, -, -, -, rfl⟩ := id h
      cases hm : memRead s.snap s.engine.cur.toNat (kindWidth k) with
      | none =>
        rw [disassembleSubs_truncated hd hi hm, runSubs_truncated rest j hd hi hm, hbit]
        exact ⟨nofun, atSub j s, by simp [finish, ErrorRecord.raise], rfl⟩
      | some raw =>
        have hread : Reading s.snap en g (s.engine.cur.toNat + (kindWidth k).bytes)
            (afterRead k key raw (atSub j s)) := { h with cur := afterRead_cur (s := atSub j s) key hm }
        rw [disassembleSubs_read hd hi hm, runSubs_read rest j hd hi hm]
        exact (ih hrest (j + 1) hread hbit).map fun _ _ ht => ht

/-- The walk over a list of bits runs as it is disassembled (R110). -/
theorem Reading.walkBits {bits : List Nat} (hbits : ∀ k ∈ bits, k < 8)
    (hlegal : ∀ k, ∀ d ∈ (en.slot k).descs, DescLegal d) (ha : a ≤ sn.len.toNat) (h : Reading sn en g a s) :
    Simulates (fun lines => Reading sn en g (a + (lines.flatMap BitLine.bytes).length)) s.out
      (disassembleBits sn en g bits a) (Machine.walkBits bits s) := by
  induction bits generalizing a s with
  | nil => exact ⟨s, rfl, h, rfl⟩
  | cons k rest ih =>
    obtain ⟨hk, hrest⟩ := List.forall_mem_cons.1 hbits
    have hatBit : Reading sn en g a (atBit k s) := { h with }
    cases hg : g.getLsbD k with
    | false =>
      rw [disassembleBits_clear hg, walkBits_clear rest (h.flagN ▸ hg)]
      exact ih hrest ha hatBit
    | true =>
      have hslot : runSlot s.out.fmtIndex.toNat k (atBit k s) = finish _ endSlot := runSlot_atBit hatBit.entry
      rw [disassembleBits_set hg, walkBits_set rest (by omega) (h.flagN ▸ hg), hslot]
      refine (hatBit.runSubs (hlegal k) 0 rfl).thenRun (fun p t => Reading.going) fun p t hp ht hout => ?_
      obtain ⟨hsubs, hlast⟩ := (disassembleSubs_eq_ok_iff (hlegal k) ha).1 hp
      refine (hout ▸ ih hrest (hlast ▸ hsubs.le) ht : Simulates _ s.out _ _).map fun lines u hu => ?_
      rwa [List.flatMap_cons, List.length_append, ← Nat.add_assoc, BitLine.bytes, hsubs.length, ← hlast]

end Walk

/-! The outcomes of a DECODE. -/

theorem raiseError_out (e : ErrCode) (b : BitVec 4) (c : Byte) (n : BitVec 2) (s : State) :
    (raiseError e b c n s).out =
      { s.out with errCode := e, errBit := b, errCursor := c, errNeed := n, state := .error } := rfl

theorem commit_out (s : State) : (commit s).out =
    { s.out with res := (commit s).out.res, consumed := s.engine.cur, mv := true, state := .done } := rfl

theorem decodeMessage_unknown {s : State} (h : lookup s.config s.snap = none) :
    ∃ t, decodeMessage s = .next t ∧ t.out = { Outputs.reset with state := .error, errCode := .unknownFormat } := by
  have hdispatch := runFetched_fetchFormat (reinit s)
  rw [reinit_config, reinit_snap, h] at hdispatch
  unfold decodeMessage
  simp only [hdispatch]
  exact ⟨_, thenRun_next_raised _ rfl, rfl⟩

/-- The outputs of a DECODE of entry e once its flag byte is read and normalised (R44, R49, R105 to R107). -/
def flaggedOutputs (e : Nat) (en : Entry) (f : Byte) : Outputs :=
  { Outputs.reset with fv := true, fmtIndex := BitVec.ofNat 8 e, flagsRaw := f, flagsNorm := normalise en f }

section Found
variable {s : State} {e n : Nat} {en : Entry} (hc : s.config.wellFormed = true)
  (hl : lookup s.config s.snap = some e) (hen : s.config.entries[e]? = some en)
  (hn : n = if headerByteEn en.header then 1 else 0)
include hl hen hn

theorem decodeMessage_no_flags (hlen : s.snap.len.toNat < n + 1) :
    ∃ t, decodeMessage s = .next t ∧ t.out = { Outputs.reset with
      state := .error, errCode := .truncatedBuffer, errCursor := BitVec.ofNat 8 n, errNeed := 1#2
      fmtIndex := BitVec.ofNat 8 e } := by
  subst hn
  have hcur : (dispatched e en (reinit s)).engine.cur = BitVec.ofNat 8 (if headerByteEn en.header then 1 else 0) :=
    (apply_ite (BitVec.ofNat 8) _ 1 0).symm
  refine ⟨_, decodeMessage_truncated hl hen (memRead_eq_none.2 hlen), ?_⟩
  rw [hcur]
  rfl

include hc

/-- With its flag byte there the DECODE comes to the check of the normalised flags behind it (R105 to R107). -/
theorem decodeMessage_flagged (hlen : n + 1 ≤ s.snap.len.toNat) :
    ∃ u, decodeMessage s = (Machine.thenRun (checkAssigned u) fun u =>
        Machine.thenRun (walkBits (List.range 8) u) fun u => .next (commit u)) ∧
      Reading s.snap en (normalise en (s.snap.mem.read n)) (n + 1) u ∧
      u.out = { flaggedOutputs e en (s.snap.mem.read n) with state := s.out.state } := by
  subst hn
  have hflags : ((s.snap.mem.read (if headerByteEn en.header then 1 else 0)).setWidth 16).setWidth 8 =
      s.snap.mem.read (if headerByteEn en.header then 1 else 0) := by simp
  refine ⟨_, decodeMessage_normalised hc hl hen (memRead_one hlen), ⟨rfl, normalised_entry? hc hen, ?_, rfl, ?_⟩, ?_⟩
  · exact congrArg (normalise en) hflags
  · exact (walked_nil (f := 0) hc hen).cur
  · simp [normalised, storeFlags, flagsRead, dispatched, reinit, flaggedOutputs]

theorem decodeMessage_unassigned (hlen : n + 1 ≤ s.snap.len.toNat) {k : Nat}
    (hk : firstUnassigned en (normalise en (s.snap.mem.read n)) = some k) :
    ∃ t, decodeMessage s = .next t ∧ t.out = { flaggedOutputs e en (s.snap.mem.read n) with
      state := .error, errCode := .unassignedFlag, errBit := BitVec.ofNat 4 k
      errCursor := BitVec.ofNat 8 (n + 1) } := by
  obtain ⟨u, hu, hread, hout⟩ := decodeMessage_flagged hc hl hen hn hlen
  have hcheck : checkAssigned u = .next (raiseError .unassignedFlag (BitVec.ofNat 4 k) u.engine.cur 0#2 u) := by
    simp [checkAssigned, hread.entry, hread.flagN, hk]
  rw [hcheck, thenRun_next_raised _ rfl] at hu
  exact ⟨_, hu, by rw [raiseError_out, hout, hread.cur_eq]; rfl⟩

/-- With every set bit assigned the DECODE walks as the disassembly does (R98), and ends with its error or DONE. -/
theorem decodeMessage_assigned (hlen : n + 1 ≤ s.snap.len.toNat)
    (hk : firstUnassigned en (normalise en (s.snap.mem.read n)) = none) :
    match disassembleBits s.snap en (normalise en (s.snap.mem.read n)) (List.range 8) (n + 1) with
    | .ok lines => ∃ t, decodeMessage s = .next t ∧ t.out = { flaggedOutputs e en (s.snap.mem.read n) with
        state := .done, mv := true, res := t.out.res
        consumed := BitVec.ofNat 8 (n + 1 + (lines.flatMap BitLine.bytes).length) }
    | .error x => ∃ t, decodeMessage s = .next t ∧ t.out = { flaggedOutputs e en (s.snap.mem.read n) with
        state := .error, errCode := x.code, errBit := x.bit, errCursor := x.cursor, errNeed := x.need } := by
  obtain ⟨u, hu, hread, hout⟩ := decodeMessage_flagged hc hl hen hn hlen
  have hcheck : checkAssigned u = .next (walkBegun u) := by
    simp [checkAssigned, hread.entry, hread.flagN, hk, walkBegun]
  have hbegun : Reading _ _ _ _ (walkBegun u) := { hread with }
  replace hout : (walkBegun u).out = _ := hout
  rw [hcheck, thenRun_next_going _ hbegun.going] at hu
  have hwalk := hbegun.walkBits (bits := List.range 8) (by simp)
    (slot_descLegal_of_wellFormed hc (List.mem_of_getElem? hen)) hlen
  cases hr : disassembleBits s.snap en (normalise en (s.snap.mem.read n)) (List.range 8) (n + 1) with
  | ok lines =>
    obtain ⟨t, ht, hend, hsame⟩ := hr ▸ hwalk
    rw [ht, thenRun_next_going _ hend.going] at hu
    exact ⟨_, hu, by rw [commit_out, hsame, hout, hend.cur_eq]⟩
  | error x =>
    obtain ⟨hx, t, ht, hsame⟩ := hr ▸ hwalk
    rw [ht, thenRun_next_raised _ (by simpa [State.raised, ErrorRecord.raise] using hx)] at hu
    exact ⟨_, hu, by rw [ErrorRecord.raise, raiseError_out, hsame, hout]⟩

end Found

/-! The two statements. -/

theorem lookup_entry {c : Configuration} {sn : Snapshot} {e : Nat} (h : lookup c sn = some e) :
    ∃ en, c.entries[e]? = some en :=
  (lookupFrom_some h).imp fun _ => And.left

/-- What a disassembly writes assembles to bytes the snapshot holds, as many as the lines and what stands before them
(R95, R98). -/
theorem holds_assemble_messageRead (name : String) {sn : Snapshot} {en : Entry} {g : Flags9} {n : Nat}
    {lines : List BitLine} (hn : n = if headerByteEn en.header then 1 else 0) (hlen : n + 1 ≤ sn.len.toNat)
    (h : LinesAt sn en g (List.range 8) (n + 1) lines) :
    sn.Holds 0 (assemble (messageRead name sn en lines)) ∧
      (assemble (messageRead name sn en lines)).length = n + 1 + (lines.flatMap BitLine.bytes).length := by
  have hsorted : (lines.map BitLine.bit).Pairwise (· < ·) := by
    rw [h.bits]
    exact List.pairwise_lt_range.sublist List.filter_sublist
  have hlines : assembleLines lines = lines.flatMap BitLine.bytes := by
    rw [assembleLines, ascendingLines_of_sorted hsorted]
    rfl
  obtain ⟨fmt, hfmt, hfmtlen, hfmtholds⟩ : ∃ fmt : List Byte, (messageRead name sn en lines).fmt.toList = fmt ∧
      fmt.length = n ∧ sn.Holds 0 fmt := by
    unfold messageRead
    cases hb : headerByteEn en.header with
    | false => exact ⟨[], rfl, by simp [hn, hb], Nat.zero_le _⟩
    | true => exact ⟨[sn.mem.read 0], rfl, by simp [hn, hb], rfl, by simp only [holds_nil]; omega⟩
  have hflags : (messageRead name sn en lines).flags = sn.mem.read n := congrArg sn.mem.read hn.symm
  have hread : assemble (messageRead name sn en lines) = fmt ++ [sn.mem.read n] ++ lines.flatMap BitLine.bytes := by
    rw [assemble, hfmt, hflags, ← hlines]
    rfl
  have hhead : (fmt ++ [sn.mem.read n]).length = n + 1 := by rw [List.length_append, hfmtlen, List.length_singleton]
  rw [hread, List.length_append, hhead, holds_append, holds_append, hhead, hfmtlen, Nat.zero_add, Nat.zero_add]
  exact ⟨⟨⟨hfmtholds, rfl, hlen⟩, h.holds⟩, rfl⟩

/-- Settles O60: check by check the DECODE ends as the disassembly does, and the lines read are held by the snapshot. -/
theorem disassemblyAgreesWithTheDecode : Obligations.DisassemblyAgreesWithTheDecode := by
  unfold Obligations.DisassemblyAgreesWithTheDecode
  intro s name hc
  cases hl : lookup s.config s.snap with
  | none =>
    obtain ⟨t, ht, hout⟩ := decodeMessage_unknown hl
    rw [disassemble_unknown name hl]
    exact ⟨t, ht, by rw [hout], by rw [hout]; rfl⟩
  | some e =>
    obtain ⟨en, hen⟩ := lookup_entry hl
    obtain ⟨n, hn⟩ : ∃ n, n = if headerByteEn en.header then 1 else 0 := ⟨_, rfl⟩
    rcases Nat.lt_or_ge s.snap.len.toNat (n + 1) with hlen | hlen
    · obtain ⟨t, ht, hout⟩ := decodeMessage_no_flags hl hen hn hlen
      rw [disassemble_truncated name hl hen hn hlen]
      exact ⟨t, ht, by rw [hout], by rw [hout]; rfl⟩
    cases hk : firstUnassigned en (normalise en (s.snap.mem.read n)) with
    | some k =>
      obtain ⟨t, ht, hout⟩ := decodeMessage_unassigned hc hl hen hn hlen hk
      rw [disassemble_unassigned name hl hen hn hlen hk]
      exact ⟨t, ht, by rw [hout], by rw [hout]; rfl⟩
    | none =>
      have hdecode := decodeMessage_assigned hc hl hen hn hlen hk
      rw [disassemble_assigned name hl hen hn hlen hk]
      cases hr : disassembleBits s.snap en (normalise en (s.snap.mem.read n)) (List.range 8) (n + 1) with
      | error x =>
        obtain ⟨t, ht, hout⟩ := hr ▸ hdecode
        exact ⟨t, ht, by rw [hout], by rw [hout]⟩
      | ok lines =>
        obtain ⟨t, ht, hout⟩ := hr ▸ hdecode
        have hat := (disassembleBits_eq_ok_iff
          (slot_descLegal_of_wellFormed hc (List.mem_of_getElem? hen)) hlen).1 hr
        obtain ⟨hholds, hlength⟩ := holds_assemble_messageRead name hn hlen hat
        have hle := hat.holds.le
        have hmax := s.snap.len.isLt
        have hcons : t.out.consumed.toNat = (assemble (messageRead name s.snap en lines)).length := by
          rw [hout, hlength]
          exact Nat.mod_eq_of_lt (by omega)
        refine ⟨t, ht, by rw [hout], ?_⟩
        rw [hcons, List.range_eq_range']
        exact hholds.eq_map_read

theorem range_eq_append_cons {n k : Nat} {before after : List Nat} (h : List.range n = before ++ k :: after) :
    before = List.range k ∧ k < n := by
  rw [List.range_eq_range', List.range'_eq_append_iff] at h
  obtain ⟨j, -, rfl, hcons⟩ := h
  obtain ⟨rfl, hpos, -⟩ := List.range'_eq_cons_iff.1 hcons.symm
  exact ⟨by simp [List.range_eq_range'], by omega⟩

/-- A sub-value of a set bit ends within the declared length (R75, R76). -/
theorem place_le_messageLength {en : Entry} {g : Flags9} {k : Nat} (hk : k < 8) (hg : g.getLsbD k = true)
    {d : Half} {before after : List Half} (hds : (en.slot k).subDescs = before ++ d :: after) :
    (if headerByteEn en.header then 1 else 0) + 1 + ((gatedBelow en g k).map descWidth).sum +
      (before.map descWidth).sum + descWidth d ≤ messageLength en g := by
  have hbits : [0, 1, 2, 3, 4, 5, 6, 7] = List.range k ++ k :: List.range' (k + 1) (7 - k) := by
    interval_cases k <;> rfl
  rw [messageLength, gatedDescs, hbits, List.filter_append, List.filter_cons_of_pos hg, List.flatMap_append,
    List.flatMap_cons, hds, ← gatedBelow]
  simp only [List.map_append, List.map_cons, List.sum_append, List.sum_cons]
  omega

/-- Settles O50: each check in its order; the walk ends as the disassembly of its bits, which is DONE exactly when the
declared length fits. -/
theorem decodeOutcomeByTheOrderOfChecks : Obligations.DecodeOutcomeByTheOrderOfChecks := by
  unfold Obligations.DecodeOutcomeByTheOrderOfChecks
  intro s hc
  refine ⟨decodeMessage_unknown, fun e n en hl hen hn => ⟨decodeMessage_no_flags hl hen hn, ?_⟩⟩
  rintro g hlen rfl
  refine ⟨fun k hk hg hun hbelow => ?_, fun hall => ?_⟩
  · refine decodeMessage_unassigned hc hl hen hn hlen (firstUnassigned_eq_some_iff.2 ⟨hk, hg, ?_, fun j hj hgj => ?_⟩)
    · exact Bool.eq_false_iff.2 fun h => hun (assigned_iff.1 h)
    · exact assigned_iff.2 ⟨by omega, hbelow j hj hgj⟩
  · have hlegal := slot_descLegal_of_wellFormed hc (List.mem_of_getElem? hen)
    have hdecode := decodeMessage_assigned hc hl hen hn hlen
      (firstUnassigned_eq_none_iff.2 fun k hk hg => assigned_iff.2 (hall k hk hg))
    cases hr : disassembleBits s.snap en (normalise en (s.snap.mem.read n)) (List.range 8) (n + 1) with
    | ok lines =>
      have hat := (disassembleBits_eq_ok_iff hlegal hlen).1 hr
      have hlength : n + 1 + (lines.flatMap BitLine.bytes).length =
          messageLength en (normalise en (s.snap.mem.read n)) := by
        rw [hat.length, hn]
        rfl
      have hle := hat.holds.le
      obtain ⟨t, ht, hout⟩ := hr ▸ hdecode
      rw [hlength] at hle hout
      exact ⟨fun _ => ⟨t, ht, hout⟩, fun hlt => absurd hle (Nat.not_le.2 hlt)⟩
    | error x =>
      obtain ⟨bits, k, bits', hbits, hg, before, d, after, hds, hfit, hover, rfl⟩ :=
        disassembleBits_error hlegal hlen hr
      obtain ⟨rfl, hk⟩ := range_eq_append_cons hbits
      obtain ⟨t, ht, hout⟩ := hr ▸ hdecode
      have hplace := place_le_messageLength hk hg hds
      refine ⟨fun hle => absurd (hn ▸ hplace) (Nat.not_le.2 (lt_of_le_of_lt hle hover)), fun _ => ?_⟩
      exact ⟨t, k, _, d, before, after, ht, hk, hg, hds, rfl, hfit, hover, hout⟩

end Sys2Proof.Machine
end

section
/-! PROOF. The operations of a DECODE before its walk, the tests of the walk, and COMMIT (40_dispatch_and_walk.md
R102 to R115). -/

namespace Sys2Proof.Machine

/-! LOOKUP (R102). -/

theorem lookupFrom_eq_findIdx? (sn : Snapshot) (l : List Entry) (i : Nat) :
    lookupFrom sn l i = (l.findIdx? (entryMatches sn)).map (· + i) := by
  induction l generalizing i with
  | nil => rfl
  | cons en rest ih =>
    rw [lookupFrom, List.findIdx?_cons]
    split
    · simp
    · rw [ih, Option.map_map]
      exact congrArg (Option.map · _) (funext fun j => (by simp only [Function.comp_apply]; omega))

theorem lookup_eq_findIdx? (c : Configuration) (sn : Snapshot) :
    lookup c sn = c.entries.findIdx? (entryMatches sn) := by
  simp [lookup, lookupFrom_eq_findIdx?]

/-- Settles O46: LOOKUP is the library's search for the first index. -/
theorem lookupReturnsTheFirstMatch : Obligations.LookupReturnsTheFirstMatch := by
  unfold Obligations.LookupReturnsTheFirstMatch
  intro c sn
  rw [lookup_eq_findIdx?]
  refine ⟨fun e => ?_, ?_⟩
  · rw [List.findIdx?_eq_some_iff_getElem]
    simp only [← entryMatches_iff, List.getElem?_eq_some_iff]
    constructor
    · rintro ⟨he, hm, hbelow⟩
      refine ⟨⟨_, ⟨he, rfl⟩, hm⟩, ?_⟩
      rintro j en hj ⟨-, rfl⟩
      exact hbelow j hj
    · rintro ⟨⟨en, ⟨he, rfl⟩, hm⟩, hbelow⟩
      exact ⟨he, hm, fun j hj => hbelow j _ hj ⟨by omega, rfl⟩⟩
  · simp only [List.findIdx?_eq_none_iff, ← entryMatches_iff, Bool.not_eq_true]

/-! The format rows (R104). -/

theorem encode_source_of_decodePort {p : Byte} {i : Instr} (h : decodePort p = .ok i) : (encode i).1 = .port := by
  unfold decodePort at h
  split at h <;> cases h <;> rfl

theorem encode_source_of_decodeByte {b : Byte} {i : Instr} (h : decodeByte b = .ok i) : (encode i).1 = .byte := by
  unfold decodeByte at h
  split at h <;> cases h <;> rfl

/-- A row of the port table or the byte table is encoded in the table it is decoded in. -/
theorem encode_source_of_decode {src : Source} {w : Nat} {i : Instr} (hsrc : src = .port ∨ src = .byte)
    (h : decode src w = .ok i) : (encode i).1 = src := by
  unfold decode at h
  split at h
  · cases h
  · rcases hsrc with rfl | rfl
    · exact encode_source_of_decodePort h
    · exact encode_source_of_decodeByte h

theorem formatWord_source {en : Entry} {src : Source} {w : Nat} (h : formatWord en = some (src, w)) :
    src = if headerByteEn en.header then .byte else .port := by
  unfold formatWord at h
  split at h
  · next hbyte _ => cases h; simp [hbyte]
  · next hbyte _ => cases h; simp [hbyte]
  · cases h

/-- A format row is of the byte table exactly where its entry is byte-keyed (R87, R162 to R166). -/
theorem encode_source_of_formatRow {e : Nat} {en : Entry} {i : Instr} (h : formatRow e en = some i) :
    (encode i).1 = if headerByteEn en.header then .byte else .port := by
  unfold formatRow at h
  split at h
  · cases h
  · next src w hword =>
    have hsrc := formatWord_source hword
    split at h
    · next j hd =>
      obtain rfl : j = i := by simpa using (Option.ite_none_right_eq_some.1 h).2
      rw [← hsrc]
      exact encode_source_of_decode (by rw [hsrc]; split <;> simp) hd
    · cases h

/-- A format row's instruction selects the row's entry where the registry holds it (R104, R161). -/
theorem exec_of_formatRow {e : Nat} {en : Entry} {i : Instr} {s : State} (hen : s.config.entries[e]? = some en)
    (hrow : formatRow e en = some i) :
    exec i s = .next { s with
      engine := { s.engine with cur := if (encode i).1 = .byte then 1#8 else 0#8, phase := .flags }
      out := { s.out with fmtIndex := BitVec.ofNat 8 e } } := by
  rw [exec_of_formatIndex (formatRow_index hrow), selectEntry_eq hen, encode_source_of_formatRow hrow]
  cases headerByteEn en.header <;> rfl

/-- Settles O22: each row by its table and its index. -/
theorem formatRowsSelectTheirEntries : Obligations.FormatRowsSelectTheirEntries := by
  unfold Obligations.FormatRowsSelectTheirEntries
  exact fun s en => ⟨exec_of_formatRow, exec_of_formatRow, exec_of_formatRow, exec_of_formatRow, exec_of_formatRow⟩

/-! The flag byte and its normalisation (R105 to R107). -/

theorem Running.busy {p : Phase} {s : State} (h : Running p s) : s.out.state = .busy := h.2.2.2.1

theorem Running.phase_eq {p : Phase} {s : State} (h : Running p s) : s.engine.phase = p := h.2.2.2.2

/-- A DECODE in progress performs the operation its phase fetches. -/
theorem step_running_op {p : Phase} {s : State} {op : EngineOp} (h : Running p s) (hf : fetch s = .op op) :
    step s = runOp op s := by
  rw [step_running h, hf]
  rfl

/-- Settles O23: the read of the byte at the cursor. -/
theorem fetchFlagsReadsTheFlagByte : Obligations.FetchFlagsReadsTheFlagByte := by
  unfold Obligations.FetchFlagsReadsTheFlagByte
  intro s h
  rw [step_running_op (op := .fetchFlags) h (by rw [fetch, h.phase_eq]), runOp]
  refine ⟨fun hlen => ?_, fun hlen => ?_⟩
  · rw [fetchFlags_some (memRead_one hlen)]
    simp [flagsRead]
  · rw [fetchFlags_none (memRead_eq_none.2 hlen)]

theorem toNat_normIdentity (f : Byte) : (normIdentity f).toNat = f.toNat := by
  have := f.isLt
  simp only [normIdentity, BitVec.toNat_setWidth]
  omega

/-- Settles O24: the row stores the flag byte in nine bits. -/
theorem normIdentityKeepsTheFlags : Obligations.NormIdentityKeepsTheFlags :=
  fun s => ⟨normIdentity s.out.flagsRaw, toNat_normIdentity _, rfl⟩

theorem getLsbD_insertZeroAt2 (f : Byte) (k : Nat) : (insertZeroAt2 f).getLsbD k =
    (decide (k < 9) && if k < 2 then f.getLsbD k else decide (3 ≤ k) && f.getLsbD (k - 1)) := by
  rcases Nat.lt_or_ge k 9 with hk | hk
  · simp only [insertZeroAt2]
    interval_cases k <;> simp
  · rw [BitVec.getLsbD_of_ge _ _ hk]
    simp [Nat.not_lt.2 hk]

theorem toNat_insertZeroAt2 (f : Byte) : (insertZeroAt2 f).toNat = f.toNat / 4 * 8 + f.toNat % 4 := by
  have := f.isLt
  have hlow : f.toNat &&& 3 = f.toNat % 4 := Nat.and_two_pow_sub_one_eq_mod _ 2
  simp only [insertZeroAt2, BitVec.toNat_or, BitVec.toNat_shiftLeft, BitVec.toNat_ushiftRight, BitVec.toNat_and,
    BitVec.toNat_setWidth, BitVec.toNat_ofNat, Nat.reducePow, Nat.reduceMod, Nat.shiftRight_eq_div_pow]
  rw [Nat.mod_eq_of_lt (by omega : f.toNat < 512), hlow, Nat.shiftLeft_eq, Nat.mod_eq_of_lt (by omega),
    ← Nat.shiftLeft_eq, ← Nat.shiftLeft_add_eq_or_of_lt (by omega : f.toNat % 4 < 2 ^ 3), Nat.shiftLeft_eq]

/-- Settles O25: the bits of the stored word and its value. -/
theorem normIns2InsertsAZeroBit : Obligations.NormIns2InsertsAZeroBit := by
  unfold Obligations.NormIns2InsertsAZeroBit
  intro s
  refine ⟨insertZeroAt2 s.out.flagsRaw, toNat_insertZeroAt2 _, fun k hk => ?_, ?_, fun k h3 hk => ?_, rfl⟩ <;>
    rw [getLsbD_insertZeroAt2]
  · simp [hk, Nat.lt_trans hk (by decide : 2 < 9)]
  · rfl
  · simp [hk, h3, Nat.not_lt.2 (Nat.le_of_succ_le h3)]

/-! CHECK_ASSIGNED and the tests of the walk (R109 to R115). -/

theorem checkAssigned_none {s : State} {en : Entry} (hen : s.entry? = some en)
    (h : firstUnassigned en s.engine.flagN = none) : checkAssigned s = .next (walkBegun s) := by
  simp [checkAssigned, hen, h, walkBegun]

theorem checkAssigned_some {s : State} {en : Entry} {k : Nat} (hen : s.entry? = some en)
    (h : firstUnassigned en s.engine.flagN = some k) :
    checkAssigned s = .next (raiseError .unassignedFlag (BitVec.ofNat 4 k) s.engine.cur 0#2 s) := by
  simp [checkAssigned, hen, h]

/-- Settles O26: the check's search finds the lowest set bit without a slot, if there is one. -/
theorem checkAssignedReportsTheLowestBit : Obligations.CheckAssignedReportsTheLowestBit := by
  unfold Obligations.CheckAssignedReportsTheLowestBit
  intro s en h hen
  rw [step_running_op (op := .checkAssigned) h (by rw [fetch, h.phase_eq]), runOp]
  refine ⟨fun hall => ?_, fun k hk hg hun hbelow => ?_⟩
  · exact checkAssigned_none hen (firstUnassigned_eq_none_iff.2 fun k hk hg => assigned_iff.2 (hall k hk hg))
  · refine checkAssigned_some hen (firstUnassigned_eq_some_iff.2 ⟨hk, hg, ?_, fun j hj hgj => ?_⟩)
    · exact Bool.eq_false_iff.2 fun ha => hun (assigned_iff.1 ha)
    · exact assigned_iff.2 ⟨by omega, hbelow j hj hgj⟩

theorem step_walk {s : State} (h : Running .walk s) : step s = .next (walk s) :=
  step_running_op (op := .walk) h (by rw [fetch, h.phase_eq])

/-- The state in which the slot of the flag bit under test begins, in a schedule (R110, R112, log 1). -/
def slotBegun (s : State) : State :=
  { s with engine := { s.engine with sub := 0#2, phase := if s.impl = .readwise then .sub else .slot } }

theorem walk_of_clear {s : State} (hbit : s.engine.bit.toNat < 8)
    (h : s.engine.flagN.getLsbD s.engine.bit.toNat = false) : walk s = endSlot s := by
  simp [walk, Nat.not_le.2 hbit, h]

theorem walk_of_set {s : State} (hbit : s.engine.bit.toNat < 8)
    (h : s.engine.flagN.getLsbD s.engine.bit.toNat = true) : walk s = slotBegun s := by
  rw [walk, if_neg (Nat.not_le.2 hbit), if_pos h, slotBegun]
  cases s.impl <;> rfl

theorem walk_of_end {s : State} (hbit : 8 ≤ s.engine.bit.toNat) : walk s = commit s := if_pos hbit

/-- Settles O27: a clear bit ends its slot unread, a set one begins it. -/
theorem walkTestsFlagBits : Obligations.WalkTestsFlagBits := by
  unfold Obligations.WalkTestsFlagBits
  intro s h hbit
  rw [step_walk h]
  refine ⟨fun hg => ?_, fun hg => by rw [walk_of_set hbit hg]; rfl⟩
  rw [walk_of_clear hbit hg, endSlot, ← h.phase_eq]

/-- Settles O28: after bit 7 the test is COMMIT, and the file it commits is the pending one. -/
theorem commitPublishesThePendingResult : Obligations.CommitPublishesThePendingResult := by
  unfold Obligations.CommitPublishesThePendingResult
  intro s h hbit
  rw [step_walk h, walk_of_end hbit]
  exact ⟨_, rfl, fun _ => rfl, fun _ _ => rfl, rfl, rfl, rfl, rfl, rfl⟩

/-! The end of a DECODE without a format (R103). -/

theorem decodeMessage_eq_raise_unknown {s : State} (h : lookup s.config s.snap = none) :
    decodeMessage s = .next (raiseError .unknownFormat 0xF#4 0#8 0#2 (reinit s)) := by
  have hdispatch := runFetched_fetchFormat (reinit s)
  rw [reinit_config, reinit_snap, h] at hdispatch
  rw [decodeMessage, hdispatch]
  exact thenRun_next_raised _ rfl

/-- Settles O47: the DECODE of the latched message raises from the state REINIT leaves. -/
theorem unknownFormatEndsTheDecode : Obligations.UnknownFormatEndsTheDecode := by
  unfold Obligations.UnknownFormatEndsTheDecode
  intro s hstart himpl hl
  rw [step_startAccepted hstart, acceptStart, himpl]
  exact ⟨_, decodeMessage_eq_raise_unknown (s := latch s) hl, rfl, rfl, rfl, rfl⟩

end Sys2Proof.Machine
end

section
/-! PROOF. A slot whose bytes run out, and a DECODE with no flag set (40_dispatch_and_walk.md R112, R120;
60_exceptions.md R183). -/

namespace Sys2Proof.Machine

/-! The first sub-value that does not fit (R112, R183). -/

/-- Descriptors that read, all but the last from bytes that fit, raise TruncatedBuffer at the last one's place. -/
theorem runSubs_truncates {before : List Half} {d : Half} {after : List Half}
    (hlegal : ∀ x ∈ before ++ [d], DescLegal x ∧ descKind x ≠ 0#4) (j : Nat) {s : State}
    (hfit : s.engine.cur.toNat + (before.map descWidth).sum ≤ s.snap.len.toNat)
    (hover : s.snap.len.toNat < s.engine.cur.toNat + (before.map descWidth).sum + descWidth d) :
    ∃ u, runSubs (before ++ d :: after) j s = .error (.next (raiseError .truncatedBuffer s.engine.bit
      (BitVec.ofNat 8 (s.engine.cur.toNat + (before.map descWidth).sum)) (BitVec.ofNat 2 (descWidth d)) u)) ∧
      u.out = s.out := by
  induction before generalizing j s with
  | nil =>
    obtain ⟨hd, hne⟩ := hlegal d (by simp)
    obtain ⟨k, i, hk, -, hd, hi⟩ := hd.resolve_left fun h0 => hne h0.1
    have hm : memRead s.snap s.engine.cur.toNat (kindWidth k) = none :=
      memRead_eq_none.2 (by simpa [descWidth_of_kind hk] using hover)
    exact ⟨atSub j s, by simp [runSubs_truncated after j hd hi hm, descWidth_of_kind hk], rfl⟩
  | cons x rest ih =>
    obtain ⟨⟨hx, hne⟩, hrest⟩ := List.forall_mem_cons.1 hlegal
    obtain ⟨k, i, hk, -, hx, hi⟩ := hx.resolve_left fun h0 => hne h0.1
    rw [List.map_cons, List.sum_cons, descWidth_of_kind hk, ← Nat.add_assoc] at hfit hover ⊢
    obtain ⟨raw, hm⟩ : ∃ raw, memRead s.snap s.engine.cur.toNat (kindWidth k) = some raw :=
      Option.ne_none_iff_exists'.1 fun h0 => by have := memRead_eq_none.1 h0; omega
    have hcur := afterRead_cur (s := atSub j s) (descKey x) hm
    rw [List.cons_append, runSubs_read _ j hx hi hm]
    have hread := ih hrest (j + 1) (s := afterRead k (descKey x) raw (atSub j s))
    rw [hcur] at hread
    exact hread hfit hover

theorem mem_subDescs {sl : Slot} {d : Half} (h : d ∈ sl.subDescs) : d ∈ sl.descs ∧ descKind d ≠ 0#4 := by
  obtain ⟨hd, hk⟩ := List.mem_filter.1 ((subDescs_sublist sl).subset h)
  exact ⟨hd, by simpa using hk⟩

/-- EXEC_SLOT of legal descriptors with given widths, the first of which that does not fit is one of width w. -/
theorem runSlot_truncates {s : State} {e k : Nat} {en : Entry} (hen : s.config.entries[e]? = some en)
    (hlegal : ∀ d ∈ (en.slot k).descs, DescLegal d) {before : List Nat} {w : Nat} {after : List Nat}
    (hw : (en.slot k).subDescs.map descWidth = before ++ w :: after)
    (hfit : s.engine.cur.toNat + before.sum ≤ s.snap.len.toNat)
    (hover : s.snap.len.toNat < s.engine.cur.toNat + before.sum + w) :
    ∃ t, runSlot e k s = .next t ∧
      t.out = { s.out with
        errCode := .truncatedBuffer, errBit := BitVec.ofNat 4 k
        errCursor := BitVec.ofNat 8 (s.engine.cur.toNat + before.sum), errNeed := BitVec.ofNat 2 w
        state := .error } ∧
      t.engine.pend = [] ∧ t.engine.phase = .idle := by
  obtain ⟨ds, ds', hsub, rfl, hds'⟩ := List.map_eq_append_iff.1 hw
  obtain ⟨d, ds', rfl, rfl, -⟩ := List.map_eq_cons_iff.1 hds'
  obtain ⟨rest, hdescs⟩ : ∃ rest, (en.slot k).descs = ds ++ d :: rest := by
    obtain ⟨rest, hrest⟩ : (en.slot k).subDescs <+: (en.slot k).descs := List.takeWhile_prefix _
    exact ⟨ds' ++ rest, by rw [← hrest, hsub]; simp⟩
  have hnamed : ∀ x ∈ ds ++ [d], DescLegal x ∧ descKind x ≠ 0#4 := fun x hx => by
    have hmem := mem_subDescs (sl := en.slot k) (d := x) (by
      rw [hsub, List.append_cons]
      exact List.mem_append_left _ hx)
    exact ⟨hlegal x hmem.1, hmem.2⟩
  obtain ⟨u, hu, hout⟩ := runSubs_truncates (after := rest) hnamed 0 (s := atBit k s) hfit hover
  rw [runSlot_atBit hen, hdescs, hu]
  exact ⟨_, rfl, by rw [raiseError_out, hout]; rfl, rfl, rfl⟩

theorem refConfig_wellFormed (soil : SoilKind) : (refConfig soil).wellFormed = true := by
  cases soil
  · exact test_load_ref.1
  · exact test_load_ref.2

/-- A row that runs its slot in REF, whose sub-values have the given widths (R167 to R173). -/
structure IsSlotRow (i : Instr) (e k : Nat) (sl : Slot) (widths : List Nat) : Prop where
  exec_eq : ∀ s, exec i s = runSlot e k s
  ref : ∃ soil en, (refEntries soil)[e]? = some en ∧ en.slot k = sl
  widths_eq : sl.subDescs.map descWidth = widths

theorem IsSlotRow.legal {i : Instr} {e k : Nat} {sl : Slot} {widths : List Nat} (h : IsSlotRow i e k sl widths) :
    ∀ d ∈ sl.descs, DescLegal d := by
  obtain ⟨soil, en, hen, rfl⟩ := h.ref
  exact slot_descLegal_of_wellFormed (refConfig_wellFormed soil) (List.mem_of_getElem? hen) k

/-- Settles O44: the rows run slots of known widths, and EXEC_SLOT raises at the first that does not fit. -/
theorem slotRowsTruncate : Obligations.SlotRowsTruncate := by
  unfold Obligations.SlotRowsTruncate
  intro s i e k en sl widths hrow hen hsl before w after hw hfit hover
  have hslot : IsSlotRow i e k sl widths := by
    simp only [List.mem_cons, List.not_mem_nil, or_false, Prod.mk.injEq] at hrow
    rcases hrow with h | h | h | h | h | h | h | h | h <;> obtain ⟨rfl, rfl, rfl, rfl, rfl⟩ := h
    iterate 8 exact ⟨fun _ => rfl, ⟨.s16Q8, _, rfl, rfl⟩, by decide⟩
    exact ⟨fun _ => rfl, ⟨.u16Q8, _, rfl, rfl⟩, by decide⟩
  rw [hslot.exec_eq]
  exact runSlot_truncates hen (hsl ▸ hslot.legal) (by rw [hsl, hslot.widths_eq, hw]) hfit hover

/-! A flag byte of 0 (R120). -/

theorem normIdentity_eq_zero_iff (f : Byte) : normIdentity f = 0#9 ↔ f = 0#8 := by
  rw [← BitVec.toNat_inj, ← BitVec.toNat_inj, toNat_normIdentity]
  rfl

theorem insertZeroAt2_eq_zero_iff (f : Byte) : insertZeroAt2 f = 0#9 ↔ f = 0#8 := by
  rw [← BitVec.toNat_inj, ← BitVec.toNat_inj, toNat_insertZeroAt2, BitVec.toNat_ofNat, BitVec.toNat_ofNat]
  omega

theorem normalise_zero (en : Entry) : normalise en 0#8 = 0#9 := by
  unfold normalise
  split <;> rfl

theorem gatedDescs_zero (en : Entry) : gatedDescs en 0#9 = [] := by simp [gatedDescs]

/-- A message of a found entry whose flag byte is 0 decodes to DONE with no slot present, its end behind that byte. -/
theorem decodeMessage_of_flags_zero {s : State} {e n : Nat} {en : Entry} (hc : s.config.wellFormed = true)
    (hl : lookup s.config s.snap = some e) (hen : s.config.entries[e]? = some en)
    (hn : n = if headerByteEn en.header then 1 else 0) (hlen : n + 1 ≤ s.snap.len.toNat)
    (hf : s.snap.mem.read n = 0#8) :
    ∃ t, decodeMessage s = .next t ∧ t.out.state = .done ∧ (∀ k, t.out.res.present k = false) ∧
      t.out.consumed.toNat = n + 1 := by
  have hg : normalise en (s.snap.mem.read n) = 0#9 := by rw [hf, normalise_zero]
  have hlength : messageLength en 0#9 = n + 1 := by simp [messageLength, gatedDescs_zero, hn]
  obtain ⟨-, hfound⟩ := decodeOutcomeByTheOrderOfChecks s hc
  obtain ⟨-, hflags⟩ := hfound e n en hl hen hn
  obtain ⟨-, hassigned⟩ := hflags 0#9 hlen hg.symm
  obtain ⟨t, ht, hout⟩ := (hassigned (by simp)).1 (hlength ▸ hlen)
  have hdone : t.out.state = .done := by rw [hout]
  have hnorm : t.out.flagsNorm = 0#9 := by rw [hout]
  refine ⟨t, ht, hdone, fun k => Bool.eq_false_iff.2 fun hk => ?_, ?_⟩
  · obtain ⟨hpresent, -⟩ := everyGatedFieldIsDelivered s t e n en hc ht hdone hl hen hn
    obtain ⟨d, hd, -⟩ := (hpresent k).1 hk
    rw [hnorm, gatedDescs_zero] at hd
    cases hd
  · have := s.snap.len.isLt
    rw [hout, hlength]
    exact Nat.mod_eq_of_lt (by omega)

/-- Settles O48: the outcome of the latched message's DECODE, by the order of its checks and by its delivered fields. -/
theorem emptyFlagsGiveAnEmptyResult : Obligations.EmptyFlagsGiveAnEmptyResult := by
  unfold Obligations.EmptyFlagsGiveAnEmptyResult
  refine ⟨fun f => ⟨normIdentity_eq_zero_iff f, insertZeroAt2_eq_zero_iff f⟩, ?_⟩
  intro s e n en hinv hstart himpl hl hen hn hlen hf
  have hread : (latch s).snap.mem.read n = 0#8 := by rw [latch_snap_mem, Memory.read_latch, if_pos hlen, hf]
  rw [step_startAccepted hstart, acceptStart, himpl]
  exact decodeMessage_of_flags_zero (s := latch s) hinv.config_ok hl hen hn hlen hread

end Sys2Proof.Machine
end

section
/-! PROOF. Two DECODEs side by side: what they read alike they decode alike (40_dispatch_and_walk.md R119, R121). -/

namespace Sys2Proof.Machine

/-! What is left of a DECODE (R100). -/

theorem thenRun_assoc (r : Result) (f g : State → Result) :
    thenRun (thenRun r f) g = thenRun r fun s => thenRun (f s) g := by
  cases r with
  | next s => cases h : s.raised <;> simp [thenRun, h]
  | fault x => rfl
  | refused x => rfl

/-- The walk from flag bit k on, and COMMIT (R110 to R115). -/
def walkFrom (k : Nat) (s : State) : Result :=
  thenRun (walkBits (List.range' k (8 - k)) s) fun s => .next (commit s)

/-- The DECODE from CHECK_ASSIGNED on (R109). -/
def fromCheck (s : State) : Result := thenRun (checkAssigned s) (walkFrom 0)

/-- The DECODE from the normalisation on (R106, R107). -/
def fromNorm (s : State) : Result := thenRun (runFetched (fetchNorm s) s) fromCheck

/-- The DECODE from FETCH_FLAGS on (R105). -/
def fromFlags (s : State) : Result := thenRun (.next (fetchFlags s)) fromNorm

theorem decodeMessage_eq (s : State) :
    decodeMessage s = thenRun (runFetched (fetchFormat (reinit s)) (reinit s)) fromFlags := rfl

theorem walkFrom_end {s : State} (h : s.raised = false) : walkFrom 8 s = .next (commit s) :=
  thenRun_next_going _ h

theorem walkFrom_clear {k : Nat} (hk : k < 8) {s : State} (h : s.engine.flagN.getLsbD k = false) :
    walkFrom k s = walkFrom (k + 1) (atBit k s) := by
  rw [walkFrom, show 8 - k = 8 - (k + 1) + 1 by omega, List.range'_succ, walkBits_clear _ h]
  rfl

theorem walkFrom_set {k : Nat} (hk : k < 8) {s : State} (h : s.engine.flagN.getLsbD k = true) :
    walkFrom k s = thenRun (runSlot s.out.fmtIndex.toNat k (atBit k s)) (walkFrom (k + 1)) := by
  rw [walkFrom, show 8 - k = 8 - (k + 1) + 1 by omega, List.range'_succ, walkBits_set _ (by omega) h, thenRun_assoc]
  rfl

/-! The relation of two DECODEs. -/

theorem checkAssigned_noEntry {s : State} (h : s.entry? = none) : checkAssigned s = .fault .noSuchEntry := by
  simp [checkAssigned, h]

/-- Two DECODEs, with outputs o and o', that have the same left to read by the same slots and flags: the cursors and the
ends of the messages are as far apart as na and nb are. -/
structure Alike (na nb : Nat) (o o' : Outputs) (s r : State) : Prop where
  left_out : s.out = o
  right_out : r.out = o'
  slots : s.entry?.map Entry.slot = r.entry?.map Entry.slot
  flagN : s.engine.flagN = r.engine.flagN
  pend : s.engine.pend = r.engine.pend
  cur : s.engine.cur.toNat + nb = r.engine.cur.toNat + na
  len : s.snap.len.toNat + nb = r.snap.len.toNat + na
  mem : ∀ j, s.engine.cur.toNat + j < s.snap.len.toNat →
    s.snap.mem.read (s.engine.cur.toNat + j) = r.snap.mem.read (r.engine.cur.toNat + j)

/-- Two outcomes of the same part of two DECODEs with outputs o and o': both go on, as Q says; both raise one error, at
cursors as far apart as na and nb are; or both stop for one reason. -/
inductive Together (na nb : Nat) (o o' : Outputs) (Q : State → State → Prop) : Result → Result → Prop where
  | goes {t u : State} (h : Q t u) : Together na nb o o' Q (.next t) (.next u)
  | raises {t u : State} (e : ErrCode) (b : BitVec 4) (c c' : Byte) (n : BitVec 2) (he : e ≠ .none) (ht : t.out = o)
      (hu : u.out = o') (hc : c.toNat + nb = c'.toNat + na) :
      Together na nb o o' Q (.next (raiseError e b c n t)) (.next (raiseError e b c' n u))
  | faults (x : Fault) : Together na nb o o' Q (.fault x) (.fault x)
  | refuses (x : Refusal) : Together na nb o o' Q (.refused x) (.refused x)

/-- Both DECODEs commit (R115). -/
def CommitAlike (na nb : Nat) (o o' : Outputs) (t u : State) : Prop :=
  ∃ x y, Alike na nb o o' x y ∧ t = commit x ∧ u = commit y

theorem firstUnassigned_congr {en en' : Entry} (h : en.slot = en'.slot) : firstUnassigned en = firstUnassigned en' := by
  have hunassigned (g : Flags9) : unassignedAt en g = unassignedAt en' g := by
    funext k
    simp only [unassignedAt, Entry.assigned, h]
  funext g
  rw [firstUnassigned, hunassigned, firstUnassigned]

/-- Two selected entries of the same slots, or none at either side. -/
theorem entries_of_slots_eq {x y : Option Entry} (h : x.map Entry.slot = y.map Entry.slot) :
    (x = none ∧ y = none) ∨ ∃ en en', x = some en ∧ y = some en' ∧ en.slot = en'.slot := by
  cases x <;> cases y <;> simp_all

section Relation
variable {na nb : Nat} {o o' : Outputs} {s r : State}

theorem Together.thenRun {Q Q' : State → State → Prop} {a b : Result} {f g : State → Result}
    (h : Together na nb o o' Q a b) (hgoing : ∀ t u, Q t u → t.raised = false ∧ u.raised = false)
    (hf : ∀ t u, Q t u → Together na nb o o' Q' (f t) (g u)) :
    Together na nb o o' Q' (Machine.thenRun a f) (Machine.thenRun b g) := by
  cases h with
  | goes h =>
    obtain ⟨ht, hu⟩ := hgoing _ _ h
    rw [thenRun_next_going f ht, thenRun_next_going g hu]
    exact hf _ _ h
  | raises e b c c' n he ht hu hc =>
    have hraised (x : Byte) (v : State) : (raiseError e b x n v).raised = true := by simpa [State.raised] using he
    rw [thenRun_next_raised f (hraised c _), thenRun_next_raised g (hraised c' _)]
    exact .raises e b c c' n he ht hu hc
  | faults x => exact .faults x
  | refuses x => exact .refuses x

theorem Alike.mem_cur (h : Alike na nb o o' s r) (hlt : s.engine.cur.toNat < s.snap.len.toNat) :
    s.snap.mem.read s.engine.cur.toNat = r.snap.mem.read r.engine.cur.toNat := h.mem 0 hlt

theorem Alike.memRead (h : Alike na nb o o' s r) (w : Width) :
    Machine.memRead s.snap s.engine.cur.toNat w = Machine.memRead r.snap r.engine.cur.toNat w := by
  have hcur := h.cur
  have hlen := h.len
  rcases Nat.lt_or_ge s.snap.len.toNat (s.engine.cur.toNat + w.bytes) with hshort | hfits
  · rw [memRead_eq_none.2 hshort, memRead_eq_none.2 (by omega)]
  · cases w with
    | one =>
      rw [Width.bytes_one] at hfits
      rw [memRead_one hfits, memRead_one (by omega), h.mem_cur (by omega)]
    | two =>
      rw [Width.bytes_two] at hfits
      rw [memRead_two hfits, memRead_two (by omega), h.mem_cur (by omega), h.mem 1 (by omega)]

theorem Alike.afterRead (h : Alike na nb o o' s r) {k : Kind} (key : Key) {raw : Half}
    (hm : Machine.memRead s.snap s.engine.cur.toNat (kindWidth k) = some raw) :
    Alike na nb o o' (afterRead k key raw s) (afterRead k key raw r) := by
  have hcur := afterRead_cur key hm
  have hcur' := afterRead_cur (s := r) key (h.memRead _ ▸ hm)
  have hbefore := h.cur
  have hpend := congrArg (ResultFile.put · key (convert k raw)) h.pend
  refine { h with pend := hpend, cur := by omega, mem := fun j hj => ?_ }
  rw [hcur, Nat.add_assoc] at hj ⊢
  rw [hcur', Nat.add_assoc]
  exact h.mem _ hj

/-- The descriptors of a slot at one flag bit (R112). -/
theorem Alike.runSubs (h : Alike na nb o o' s r) (hbit : s.engine.bit = r.engine.bit) (descs : List Half) (j : Nat) :
    Together na nb o o' (Alike na nb o o') (finish (Machine.runSubs descs j s) endSlot)
      (finish (Machine.runSubs descs j r) endSlot) := by
  induction descs generalizing j s r with
  | nil => exact .goes { h with }
  | cons d rest ih =>
    cases hd : decodeDescriptor d with
    | error x =>
      rw [runSubs_reserved rest j hd, runSubs_reserved rest j hd]
      exact .refuses _
    | ok i =>
      cases hi : i.sub? with
      | none =>
        rw [runSubs_end rest j hd hi, runSubs_end rest j hd hi]
        exact .goes { h with }
      | some p =>
        have hread := h.memRead (kindWidth p.1)
        cases hm : Machine.memRead s.snap s.engine.cur.toNat (kindWidth p.1) with
        | none =>
          rw [runSubs_truncated rest j hd hi hm, runSubs_truncated rest j hd hi (hread ▸ hm), hbit]
          exact .raises _ _ _ _ _ nofun h.left_out h.right_out h.cur
        | some raw =>
          rw [runSubs_read rest j hd hi hm, runSubs_read rest j hd hi (hread ▸ hm)]
          have hsub : Alike na nb o o' (atSub j s) (atSub j r) := { h with }
          exact ih (hsub.afterRead p.2 hm) hbit (j + 1)

/-- The slots of a flag bit (R112). -/
theorem Alike.runSlot (h : Alike na nb o o' s r) (k : Nat) :
    Together na nb o o' (Alike na nb o o') (Machine.runSlot s.out.fmtIndex.toNat k s)
      (Machine.runSlot r.out.fmtIndex.toNat k r) := by
  have hbit : Alike na nb o o' (atBit k s) (atBit k r) := { h with }
  rcases entries_of_slots_eq h.slots with ⟨hs, hr⟩ | ⟨en, en', hs, hr, hslot⟩
  · rw [runSlot_noEntry hs, runSlot_noEntry hr]
    exact .faults _
  · rw [runSlot_atBit hs, runSlot_atBit hr, hslot]
    exact hbit.runSubs rfl _ 0

variable (ho : o.errCode = .none) (ho' : o'.errCode = .none)
include ho ho'

theorem Alike.going (h : Alike na nb o o' s r) : s.raised = false ∧ r.raised = false := by
  simp [State.raised, h.left_out, h.right_out, ho, ho']

/-- The walk (R110 to R115). -/
theorem Alike.walkFrom (h : Alike na nb o o' s r) {k : Nat} (hk : k ≤ 8) :
    Together na nb o o' (CommitAlike na nb o o') (walkFrom k s) (walkFrom k r) := by
  induction hk using Nat.decreasingInduction generalizing s r with
  | self =>
    obtain ⟨hs, hr⟩ := h.going ho ho'
    rw [walkFrom_end hs, walkFrom_end hr]
    exact .goes ⟨s, r, h, rfl, rfl⟩
  | of_succ k hk ih =>
    have hbit : Alike na nb o o' (atBit k s) (atBit k r) := { h with }
    cases hg : s.engine.flagN.getLsbD k with
    | false =>
      rw [walkFrom_clear hk hg, walkFrom_clear hk (h.flagN ▸ hg)]
      exact ih hbit
    | true =>
      rw [walkFrom_set hk hg, walkFrom_set hk (h.flagN ▸ hg)]
      exact (hbit.runSlot k).thenRun (fun _ _ => Alike.going ho ho') fun _ _ => ih

/-- The check of the flags and the walk (R109 to R115). -/
theorem Alike.fromCheck (h : Alike na nb o o' (walkBegun s) (walkBegun r)) :
    Together na nb o o' (CommitAlike na nb o o') (fromCheck s) (fromCheck r) := by
  have hflagN : s.engine.flagN = r.engine.flagN := h.flagN
  obtain ⟨hs, hr⟩ := h.going ho ho'
  unfold Machine.fromCheck
  rcases entries_of_slots_eq (x := s.entry?) (y := r.entry?) h.slots with ⟨hen, hen'⟩ | ⟨en, en', hen, hen', hslot⟩
  · rw [checkAssigned_noEntry hen, checkAssigned_noEntry hen']
    exact .faults _
  · have hcheck : firstUnassigned en s.engine.flagN = firstUnassigned en' r.engine.flagN := by
      rw [firstUnassigned_congr hslot, hflagN]
    cases hk : firstUnassigned en s.engine.flagN with
    | none =>
      rw [checkAssigned_none hen hk, checkAssigned_none hen' (hcheck ▸ hk), thenRun_next_going _ hs,
        thenRun_next_going _ hr]
      exact h.walkFrom ho ho' (Nat.zero_le 8)
    | some k =>
      rw [checkAssigned_some hen hk, checkAssigned_some hen' (hcheck ▸ hk), thenRun_next_raised _ rfl,
        thenRun_next_raised _ rfl]
      exact .raises _ _ _ _ _ nofun h.left_out h.right_out h.cur

end Relation

/-! The outputs depend on the message alone (R119). -/

/-- Two snapshots of the same message: length, bytes below it, port validity, and the port where it is valid (R57). -/
structure Snapshot.SameMessage (a b : Snapshot) : Prop where
  len : a.len = b.len
  portValid : a.portValid = b.portValid
  port : a.portValid = true → a.port = b.port
  mem : ∀ i, i < a.len.toNat → a.mem.read i = b.mem.read i

theorem Snapshot.SameMessage.of_latch {s r : State} (h : s.inputs.SameMessage r.inputs) :
    (latch s).snap.SameMessage (latch r).snap := by
  obtain ⟨hlen, hvalid, hport, hbuf⟩ := h
  refine ⟨hlen, hvalid, hport, fun i (hi : i < s.inputs.msgLen.toNat) => ?_⟩
  rw [latch_snap_mem, latch_snap_mem, Memory.read_latch, Memory.read_latch, ← hlen, if_pos hi, if_pos hi, hbuf i hi]

theorem Snapshot.SameMessage.selectorsMatch_iff {a b : Snapshot} (h : a.SameMessage b) (en : Entry) :
    SelectorsMatch a en ↔ SelectorsMatch b en := by
  have hport : (a.portValid = true ∧ a.port = headerPortVal en.header) ↔
      (b.portValid = true ∧ b.port = headerPortVal en.header) := by
    rw [← h.portValid]
    exact and_congr_right fun hv => by rw [h.port hv]
  have hbyte : (1 ≤ a.len.toNat ∧ a.mem.read 0 = headerByteVal en.header) ↔
      (1 ≤ b.len.toNat ∧ b.mem.read 0 = headerByteVal en.header) := by
    rw [← h.len]
    exact and_congr_right fun hl => by rw [h.mem 0 hl]
  rw [SelectorsMatch, SelectorsMatch, hport, hbyte]

theorem Snapshot.SameMessage.lookup_eq {a b : Snapshot} (h : a.SameMessage b) (c : Configuration) :
    lookup c a = lookup c b := by
  have hmatches : entryMatches a = entryMatches b := by
    funext en
    rw [Bool.eq_iff_iff, entryMatches_iff, entryMatches_iff, h.selectorsMatch_iff]
  rw [lookup_eq_findIdx?, lookup_eq_findIdx?, hmatches]

/-- The outputs of an outcome, or why it stops. -/
def outputsOf (r : Result) : Host.Outcome Outputs Fault Refusal :=
  match r with
  | .next s => .next s.out
  | .fault x => .fault x
  | .refused x => .refused x

theorem sameOutputs_iff {a b : Result} : SameOutputs a b ↔ outputsOf a = outputsOf b := by
  cases a <;> cases b <;> simp [SameOutputs, outputsOf]

theorem SameOutputs.refl (a : Result) : SameOutputs a a := sameOutputs_iff.2 rfl

theorem SameOutputs.trans {a b c : Result} (h : SameOutputs a b) (h' : SameOutputs b c) : SameOutputs a c :=
  sameOutputs_iff.2 ((sameOutputs_iff.1 h).trans (sameOutputs_iff.1 h'))

/-- Outcomes at equal cursors of DECODEs whose outputs differ in STATE at most have the same outputs. -/
theorem Together.sameOutputs {o : Outputs} {st : DecoderState} {a b : Result}
    (h : Together 0 0 o { o with state := st } (CommitAlike 0 0 o { o with state := st }) a b) : SameOutputs a b := by
  cases h with
  | goes h =>
    obtain ⟨x, y, hxy, rfl, rfl⟩ := h
    have hcur : x.engine.cur = y.engine.cur := BitVec.eq_of_toNat_eq hxy.cur
    simp [SameOutputs, commit, hxy.left_out, hxy.right_out, hxy.pend, hcur]
  | raises e b c c' n he ht hu hc =>
    have hcur : c = c' := BitVec.eq_of_toNat_eq hc
    simp [SameOutputs, raiseError_out, ht, hu, hcur]
  | faults x => rfl
  | refuses x => rfl

theorem normRow_of_decode_header {w : Nat} {i : Instr} (h : decode .header w = .ok i) :
    i = .normIdentity ∨ i = .normIns2 := by
  unfold decode at h
  split at h
  · cases h
  · simp only [decodeHeader] at h
    split at h
    · cases h
    · split at h <;> cases h
      · exact .inl rfl
      · exact .inr rfl

/-- What the normalisation of a selected entry does, whatever the state: it stores flags, or stops the step. -/
theorem fromNorm_cases (x : Option Entry) :
    (∃ g, ∀ s : State, s.entry? = x → s.raised = false → fromNorm s = fromCheck (storeFlags g s)) ∨
    (∃ f, ∀ s : State, s.entry? = x → fromNorm s = .fault f) ∨
    ∃ f, ∀ s : State, s.entry? = x → fromNorm s = .refused f := by
  cases x with
  | none =>
    refine .inr (.inl ⟨.noSuchEntry, fun s hs => ?_⟩)
    simp [fromNorm, fetchNorm, hs, runFetched, runOp, thenRun]
  | some en =>
    cases hd : decode .header en.header.toNat with
    | error y =>
      refine .inr (.inr ⟨.reservedEncoding y, fun s hs => ?_⟩)
      simp [fromNorm, fetchNorm, hs, hd, runFetched, thenRun]
    | ok i =>
      have hexec : ∃ g, ∀ s, exec i s = .next (storeFlags g s) := by
        rcases normRow_of_decode_header hd with rfl | rfl
        · exact ⟨normIdentity, fun _ => rfl⟩
        · exact ⟨insertZeroAt2, fun _ => rfl⟩
      refine .inl (hexec.imp fun g hg s hs hgoing => ?_)
      simp only [fromNorm, fetchNorm, hs, hd, runFetched, hg]
      exact thenRun_next_going _ hgoing

/-- What the flags of a found entry leave to do is alike for snapshots of the same message. -/
theorem alike_of_flagsRead {s r : State} (hc : s.config = r.config) (hsn : s.snap.SameMessage r.snap) (e : Nat)
    (en : Entry) (f : Half) (g : Byte → Flags9) :
    Alike 0 0 { flaggedOutputs e en (f.setWidth 8) with flagsNorm := g (f.setWidth 8), state := s.out.state }
      { flaggedOutputs e en (f.setWidth 8) with flagsNorm := g (f.setWidth 8), state := r.out.state }
      (walkBegun (storeFlags g (flagsRead f (dispatched e en (reinit s)))))
      (walkBegun (storeFlags g (flagsRead f (dispatched e en (reinit r))))) where
  left_out := rfl
  right_out := rfl
  slots := by
    change (s.config.entries[_]?).map _ = (r.config.entries[_]?).map _
    rw [hc]
    rfl
  flagN := rfl
  pend := rfl
  cur := rfl
  len := congrArg BitVec.toNat hsn.len
  mem _ hj := hsn.mem _ hj

theorem decodeMessage_found {s : State} {e : Nat} {en : Entry} (hl : lookup s.config s.snap = some e)
    (hen : s.config.entries[e]? = some en) : decodeMessage s = fromFlags (dispatched e en (reinit s)) :=
  decodeMessage_dispatched hl hen

theorem fromFlags_dispatched {s : State} {e n : Nat} {en : Entry} (hn : n = if headerByteEn en.header then 1 else 0)
    (hlen : n + 1 ≤ s.snap.len.toNat) :
    fromFlags (dispatched e en (reinit s)) =
      fromNorm (flagsRead ((s.snap.mem.read n).setWidth 16) (dispatched e en (reinit s))) := by
  have hcur : (dispatched e en (reinit s)).engine.cur.toNat = n := by rw [dispatched_cur, hn]
  have hm : memRead s.snap (dispatched e en (reinit s)).engine.cur.toNat .one = _ := hcur ▸ memRead_one hlen
  rw [fromFlags, fetchFlags_some (s := dispatched e en (reinit s)) hm, hcur]
  exact thenRun_next_going (u := flagsRead _ (dispatched e en (reinit s))) _ rfl

/-- DECODEs of the same message under the same configuration have the same outputs, or stop for the same reason. -/
theorem decodeMessage_sameOutputs {s r : State} (hc : s.config = r.config) (hsn : s.snap.SameMessage r.snap) :
    SameOutputs (decodeMessage s) (decodeMessage r) := by
  have hl := hsn.lookup_eq s.config
  cases hs : lookup s.config s.snap with
  | none =>
    rw [decodeMessage_eq_raise_unknown hs, decodeMessage_eq_raise_unknown (s := r) (by rw [← hc, ← hl, hs])]
    rfl
  | some e =>
    obtain ⟨en, hen⟩ := lookup_entry hs
    have hr : lookup r.config r.snap = some e := by rw [← hc, ← hl, hs]
    have hen' : r.config.entries[e]? = some en := hc ▸ hen
    obtain ⟨n, hn⟩ : ∃ n, n = if headerByteEn en.header then 1 else 0 := ⟨_, rfl⟩
    rcases Nat.lt_or_ge s.snap.len.toNat (n + 1) with hlen | hlen
    · obtain ⟨t, ht, hout⟩ := decodeMessage_no_flags hs hen hn hlen
      obtain ⟨u, hu, hout'⟩ := decodeMessage_no_flags hr hen' hn (hsn.len ▸ hlen)
      rw [ht, hu]
      exact hout.trans hout'.symm
    · have hf := fromFlags_dispatched (e := e) hn hlen
      have hf' := fromFlags_dispatched (s := r) (e := e) hn (hsn.len ▸ hlen)
      rw [← hsn.mem n hlen] at hf'
      rw [decodeMessage_found hs hen, decodeMessage_found hr hen', hf, hf']
      generalize (s.snap.mem.read n).setWidth 16 = f
      have hentry : (flagsRead f (dispatched e en (reinit r))).entry? =
          (flagsRead f (dispatched e en (reinit s))).entry? := by
        change r.config.entries[_]? = s.config.entries[_]?
        rw [hc]
        rfl
      rcases fromNorm_cases (flagsRead f (dispatched e en (reinit s))).entry? with ⟨g, hg⟩ | ⟨x, hx⟩ | ⟨x, hx⟩
      · rw [hg _ rfl rfl, hg _ hentry rfl]
        exact ((alike_of_flagsRead hc hsn e en f g).fromCheck rfl rfl).sameOutputs (st := r.out.state)
      · rw [hx _ rfl, hx _ hentry]
        rfl
      · rw [hx _ rfl, hx _ hentry]
        rfl

/-- Settles O52: the accepted STARTs latch the same message. -/
theorem outputsDependOnTheMessageAlone : Obligations.OutputsDependOnTheMessageAlone := by
  unfold Obligations.OutputsDependOnTheMessageAlone
  intro s r hs hr himpl himpl' hc hmsg
  rw [step_startAccepted hs, step_startAccepted hr, acceptStart, acceptStart, himpl, himpl']
  exact decodeMessage_sameOutputs (s := latch s) (r := latch r) hc (.of_latch hmsg)

/-! A legacy entry and its successor (R121). -/

theorem decodeMessage_next {s : State} (hc : s.config.wellFormed = true) : ∃ t, decodeMessage s = .next t := by
  have h := disassemblyAgreesWithTheDecode s "" hc
  split at h
  · exact h.imp fun _ => And.left
  · exact h.imp fun _ => And.left

theorem slot_eq_getD (en : Entry) (k : Nat) : en.slot k = en.slots.getD k Slot.unassigned := by
  match k with
  | 0 | 1 | 2 | 3 | 4 | 5 | 6 | 7 => rfl
  | _ + 8 => rfl

theorem slot_congr {en en' : Entry} (h : en.slots = en'.slots) : en.slot = en'.slot := by
  funext k
  rw [slot_eq_getD, slot_eq_getD, h]

/-- Two DECODEs behind their flag bytes that read the same field data by the same slots and flags. -/
theorem Reading.alike {s r x y : State} {na nb : Nat} {en en' : Entry} {g : Flags9}
    (hx : Reading s.snap en g (na + 1) x) (hy : Reading r.snap en' g (nb + 1) y) (hslots : en.slots = en'.slots)
    (hlen : s.snap.len.toNat + nb = r.snap.len.toNat + na)
    (hmem : ∀ j, na + 1 + j < s.snap.len.toNat → s.snap.mem.read (na + 1 + j) = r.snap.mem.read (nb + 1 + j)) :
    Alike na nb x.out y.out (walkBegun x) (walkBegun y) where
  left_out := rfl
  right_out := rfl
  slots := by
    change x.entry?.map _ = y.entry?.map _
    rw [hx.entry, hy.entry, Option.map_some, Option.map_some, slot_congr hslots]
  flagN := hx.flagN.trans hy.flagN.symm
  pend := rfl
  cur := by
    change x.engine.cur.toNat + nb = y.engine.cur.toNat + na
    rw [hx.cur, hy.cur]
    omega
  len := by
    change x.snap.len.toNat + nb = y.snap.len.toNat + na
    rw [hx.snap, hy.snap, hlen]
  mem := by
    change ∀ j, x.engine.cur.toNat + j < x.snap.len.toNat →
      x.snap.mem.read (x.engine.cur.toNat + j) = y.snap.mem.read (y.engine.cur.toNat + j)
    rwa [hx.cur, hy.cur, hx.snap, hy.snap]

/-- A message of a legacy entry with bit 7 of its flag byte set fails at bit 8 or at an unassigned bit below (R109,
R121). -/
theorem firstUnassigned_of_bit_seven (en : Entry) {f : Byte} (h : f.getLsbD 7 = true) :
    ∃ k, firstUnassigned en (insertZeroAt2 f) = some k ∧
      ((∀ j, j < 8 → (insertZeroAt2 f).getLsbD j = true → en.assigned j = true) → k = 8) := by
  have h8 : (insertZeroAt2 f).getLsbD 8 = true := by simp [getLsbD_insertZeroAt2, h]
  cases hk : firstUnassigned en (insertZeroAt2 f) with
  | none =>
    have hle := le_seven_of_assigned (firstUnassigned_eq_none_iff.1 hk 8 (by decide) h8)
    exact absurd hle (by decide)
  | some k =>
    obtain ⟨hlt, hset, hun, -⟩ := firstUnassigned_eq_some_iff.1 hk
    refine ⟨k, rfl, fun hall => ?_⟩
    by_contra hne
    rw [hall k (by omega) hset] at hun
    cases hun

/-- Settles O49: with the same normalised flags the two DECODEs read alike behind their flag bytes; a set bit 7 is bit 8
of the normalised flags, which has no slot. -/
theorem legacyEntryDecodesAsItsSuccessor : Obligations.LegacyEntryDecodesAsItsSuccessor := by
  unfold Obligations.LegacyEntryDecodesAsItsSuccessor
  rintro s r a b na nb enA enB f hc hcfg hla henA hnormA hlb henB hnormB hslots hna hnb hlenA rfl
  have hnA : normalise enA (s.snap.mem.read na) = insertZeroAt2 (s.snap.mem.read na) := if_pos hnormA
  have hnB : normalise enB (r.snap.mem.read nb) = normIdentity (r.snap.mem.read nb) :=
    if_neg (by rw [hnormB]; decide)
  refine ⟨fun h7 hlen hf hmem => ?_, fun h7 => ?_⟩
  · have hc' : r.config.wellFormed = true := hcfg ▸ hc
    obtain ⟨x, hx, hreadA, hout⟩ := decodeMessage_flagged hc hla henA hna hlenA
    obtain ⟨y, hy, hreadB, hout'⟩ := decodeMessage_flagged hc' hlb henB hnb (by omega)
    have hflags : normalise enB (r.snap.mem.read nb) = normalise enA (s.snap.mem.read na) := by
      apply BitVec.eq_of_toNat_eq
      rw [hnA, hnB, toNat_insertZeroAt2, toNat_normIdentity, hf]
    have halike := hreadA.alike (hflags ▸ hreadB) hslots hlen hmem
    have htogether := halike.fromCheck (by rw [hout]; rfl) (by rw [hout']; rfl)
    obtain ⟨t, ht⟩ := decodeMessage_next hc
    obtain ⟨u, hu⟩ := decodeMessage_next hc'
    have hsame : Together na nb x.out y.out (CommitAlike na nb x.out y.out) (.next t) (.next u) := by
      rw [← ht, ← hu, hx, hy]
      exact htogether
    refine ⟨t, u, ht, hu, ?_⟩
    cases hsame with
    | goes h =>
      obtain ⟨v, w, hvw, rfl, rfl⟩ := h
      refine ⟨hvw.pend, rfl, ?_, ?_, fun _ => hvw.cur⟩
      · rw [commit_out_errCode, commit_out_errCode, hvw.left_out, hvw.right_out, hout, hout']
        rfl
      · rw [commit_out_errBit, commit_out_errBit, hvw.left_out, hvw.right_out, hout, hout']
        rfl
    | raises e b c c' n he hv hw hc =>
      refine ⟨?_, rfl, rfl, rfl, nofun⟩
      rw [raiseError_out_res, raiseError_out_res, hv, hw, hout, hout']
      rfl
  · obtain ⟨k, hk, h8⟩ := firstUnassigned_of_bit_seven enA h7
    obtain ⟨t, ht, hout⟩ := decodeMessage_unassigned hc hla henA hna hlenA (hnA ▸ hk)
    exact ⟨t, ht, by rw [hout], by rw [hout], fun hall => by rw [hout, h8 hall]⟩

end Sys2Proof.Machine
end

section
/-! PROOF. A DECODE in several steps ends with the outputs of the DECODE in one (40_dispatch_and_walk.md R123). -/

namespace Sys2Proof.Machine

/-! What is left of a DECODE in progress. -/

/-- The descriptors of the slot in progress from `SUB` on (R112). -/
def subsLeft (s : State) : List Half :=
  match s.entry? with
  | none => []
  | some en => (en.slot s.engine.bit.toNat).descs.drop s.engine.sub.toNat

/-- The rest of a DECODE in progress, as one step from where it stands. -/
def remaining (s : State) : Result :=
  match s.engine.phase with
  | .idle => .next s
  | .lookup => thenRun (runFetched (fetchFormat s) s) fromFlags
  | .flags => fromFlags s
  | .norm => fromNorm s
  | .check => fromCheck s
  | .walk => walkFrom s.engine.bit.toNat s
  | .slot => thenRun (runSlot s.out.fmtIndex.toNat s.engine.bit.toNat s) (walkFrom (s.engine.bit.toNat + 1))
  | .sub => thenRun (finish (runSubs (subsLeft s) s.engine.sub.toNat s) endSlot) (walkFrom (s.engine.bit.toNat + 1))

/-- A DECODE in progress takes at most so many more steps: four for each flag bit left, one for COMMIT (log 1). -/
def stepsLeft (s : State) : Nat :=
  match s.engine.phase with
  | .idle => 0
  | .lookup => 37
  | .flags => 36
  | .norm => 35
  | .check => 34
  | .walk => 4 * (8 - s.engine.bit.toNat) + 1
  | .slot => 4 * (7 - s.engine.bit.toNat) + 2
  | .sub => 4 * (7 - s.engine.bit.toNat) + (4 - s.engine.sub.toNat)

theorem remaining_beginDecode (s : State) : remaining (beginDecode s) = decodeMessage (beginDecode s) := rfl

/-- A step towards the end of a DECODE in progress: the DECODE has ended with the outputs that were left to give, or
goes on, with the same outputs left to give, nearer its end. -/
def Advances (s t : State) : Prop :=
  if t.out.state = .busy then SameOutputs (remaining s) (remaining t) ∧ stepsLeft t < stepsLeft s
  else (t.out.state = .done ∨ t.out.state = .error) ∧ SameOutputs (remaining s) (.next t)

/-- States that differ in the registers a walk sets before it reads them have the same left to read. -/
theorem alike_self {s t : State} (hin : SameAround s t) (hout : t.out = s.out)
    (hflagN : t.engine.flagN = s.engine.flagN) (hpend : t.engine.pend = s.engine.pend)
    (hcur : t.engine.cur = s.engine.cur) : Alike 0 0 s.out s.out s t where
  left_out := rfl
  right_out := hout
  slots := by rw [State.entry?, State.entry?, hout, hin.config]
  flagN := hflagN.symm
  pend := hpend.symm
  cur := by rw [hcur]
  len := by rw [hin.snap]
  mem _ _ := by rw [hin.snap, hcur]

theorem Alike.walkFrom_sameOutputs {o : Outputs} (ho : o.errCode = .none) {s t : State} (h : Alike 0 0 o o s t)
    {k : Nat} (hk : k ≤ 8) : SameOutputs (Machine.walkFrom k s) (Machine.walkFrom k t) :=
  (h.walkFrom ho ho hk).sameOutputs (st := o.state)

theorem Together.thenWalk_sameOutputs {o : Outputs} (ho : o.errCode = .none) {k : Nat} (hk : k ≤ 8) {a b : Result}
    (h : Together 0 0 o o (Alike 0 0 o o) a b) :
    SameOutputs (Machine.thenRun a (walkFrom k)) (Machine.thenRun b (walkFrom k)) :=
  (h.thenRun (fun _ _ => Alike.going ho ho) fun _ _ hx => hx.walkFrom ho ho hk).sameOutputs (st := o.state)

/-! The steps (R102 to R115). -/

theorem advances_of_sameOutputs {s t : State} (hbusy : t.out.state = .busy)
    (h : SameOutputs (remaining s) (remaining t)) (hlt : stepsLeft t < stepsLeft s) : Advances s t := by
  rw [Advances, if_pos hbusy]
  exact ⟨h, hlt⟩

theorem advances_of_eq {s t : State} (hbusy : t.out.state = .busy) (hrem : remaining s = remaining t)
    (hlt : stepsLeft t < stepsLeft s) : Advances s t :=
  advances_of_sameOutputs hbusy (by rw [hrem]; exact SameOutputs.refl _) hlt

theorem advances_of_end {s t : State} (hend : t.out.state = .done ∨ t.out.state = .error)
    (hrem : remaining s = .next t) : Advances s t := by
  rw [Advances, if_neg (by rcases hend with hend | hend <;> simp [hend]), hrem]
  exact ⟨hend, SameOutputs.refl _⟩

/-- An operation that is the first of what is left ends the DECODE or leaves the rest. -/
theorem Gives.advances {q : Phase} {s : State} {r : Result} {next : State → Result} (h : Gives (GoesOn q s) r)
    (hbusy : s.out.state = .busy) (hrem : remaining s = thenRun r next)
    (hnext : ∀ t, r = .next t → t.engine.phase = q → remaining t = next t ∧ stepsLeft t < stepsLeft s) :
    ∃ t, r = .next t ∧ Advances s t := by
  obtain ⟨t, rfl, ⟨hinv, hraised⟩ | hgo⟩ := h
  · have hend : t.out.state = .error := hinv.err_iff.1 (by simpa [State.raised] using hraised)
    exact ⟨t, rfl, advances_of_end (.inr hend) (by rw [hrem, thenRun_next_raised _ hraised])⟩
  · obtain ⟨ht, hlt⟩ := hnext t rfl hgo.phase
    refine ⟨t, rfl, advances_of_eq (hgo.state.trans hbusy) ?_ hlt⟩
    rw [hrem, thenRun_next_going _ hgo.facts.raised, ht]

theorem toNat_endSlot_bit {s : State} (hbit : s.engine.bit.toNat < 8) :
    (endSlot s).engine.bit.toNat = s.engine.bit.toNat + 1 := by
  simp only [endSlot_engine_bit, BitVec.toNat_add, BitVec.toNat_ofNat]
  omega

/-- At the walk's tests the walk from `BIT` is left (R110). -/
theorem remaining_walk {s : State} (hphase : s.engine.phase = .walk) :
    remaining s = walkFrom s.engine.bit.toNat s ∧ stepsLeft s = 4 * (8 - s.engine.bit.toNat) + 1 := by
  rw [remaining, stepsLeft, hphase]
  exact ⟨rfl, rfl⟩

theorem remaining_endSlot {s : State} (hbit : s.engine.bit.toNat < 8) :
    remaining (endSlot s) = walkFrom (s.engine.bit.toNat + 1) (endSlot s) ∧
      stepsLeft (endSlot s) = 4 * (7 - s.engine.bit.toNat) + 1 := by
  obtain ⟨hrem, hleft⟩ := remaining_walk (s := endSlot s) rfl
  rw [toNat_endSlot_bit hbit] at hrem hleft
  exact ⟨hrem, by rw [hleft]; omega⟩

theorem remaining_slot {s : State} (hphase : s.engine.phase = .slot) :
    remaining s = thenRun (runSlot s.out.fmtIndex.toNat s.engine.bit.toNat s) (walkFrom (s.engine.bit.toNat + 1)) ∧
      stepsLeft s = 4 * (7 - s.engine.bit.toNat) + 2 := by
  rw [remaining, stepsLeft, hphase]
  exact ⟨rfl, rfl⟩

theorem remaining_sub {s : State} {en : Entry} (hphase : s.engine.phase = .sub) (hen : s.entry? = some en) :
    remaining s = thenRun (finish (runSubs ((en.slot s.engine.bit.toNat).descs.drop s.engine.sub.toNat)
        s.engine.sub.toNat s) endSlot) (walkFrom (s.engine.bit.toNat + 1)) ∧
      stepsLeft s = 4 * (7 - s.engine.bit.toNat) + (4 - s.engine.sub.toNat) := by
  rw [remaining, stepsLeft, hphase, subsLeft, hen]
  exact ⟨rfl, rfl⟩

/-- EXEC_SLOT that goes on leaves the walk at the next bit (R112). -/
theorem runSlot_bit {e k : Nat} {s t : State} (h : runSlot e k s = .next t) (hphase : t.engine.phase = .walk) :
    t.engine.bit = BitVec.ofNat 4 k + 1#4 := by
  cases hen : s.config.entries[e]? with
  | none => rw [runSlot_noEntry hen] at h; cases h
  | some en =>
    rw [runSlot_atBit hen] at h
    rcases runSubs_cases (P := fun u => u.engine.bit = BitVec.ofNat 4 k) (fun _ _ hu => hu) (fun _ _ _ _ hu _ => hu)
      (en.slot k).descs 0 (s := atBit k s) rfl with
      ⟨u, hr, hu⟩ | ⟨u, b, c, n, hr, -⟩ | ⟨d, -, x, -, hr⟩ <;> rw [hr] at h <;> cases h
    · rw [endSlot_engine_bit, hu]
    · cases hphase

/-- The start of a set bit's slot leaves the slot and the walk behind it, in both schedules (R110, R112, log 1). -/
theorem slotBegun_sameOutputs {s : State} (h : At .walk s) (hbit : s.engine.bit.toNat < 8) :
    SameOutputs (thenRun (runSlot s.out.fmtIndex.toNat s.engine.bit.toNat s) (walkFrom (s.engine.bit.toNat + 1)))
      (remaining (slotBegun s)) := by
  have halike : Alike 0 0 s.out s.out s (slotBegun s) :=
    alike_self ⟨rfl, rfl, rfl, rfl, rfl, rfl, rfl, rfl⟩ rfl rfl rfl rfl
  by_cases himpl : s.impl = .readwise
  · obtain ⟨en, hen⟩ := entry?_of_selected h.1.selected
    have hphase : (slotBegun s).engine.phase = .sub := if_pos himpl
    rw [(remaining_sub hphase hen).1, runSlot_atBit hen, atBit_toNat]
    exact (halike.runSubs rfl _ 0).thenWalk_sameOutputs h.clean.errCode hbit
  · have hphase : (slotBegun s).engine.phase = .slot := if_neg himpl
    rw [(remaining_slot hphase).1]
    exact (halike.runSlot _).thenWalk_sameOutputs h.clean.errCode hbit

theorem stepsLeft_slotBegun {s : State} : stepsLeft (slotBegun s) ≤ 4 * (7 - s.engine.bit.toNat) + 4 := by
  by_cases himpl : s.impl = .readwise <;> simp [stepsLeft, slotBegun, himpl]

theorem walk_advances {s : State} (h : At .walk s) (hphase : s.engine.phase = .walk) (hbusy : s.out.state = .busy) :
    Advances s (walk s) := by
  obtain ⟨hrem, hleft⟩ := remaining_walk hphase
  rcases h.2.lt_or_eq with hbit | hbit
  · have hself : atBit s.engine.bit.toNat s = s := atBit_toNat s
    cases hg : s.engine.flagN.getLsbD s.engine.bit.toNat with
    | false =>
      obtain ⟨hrem', hleft'⟩ := remaining_endSlot hbit
      rw [walk_of_clear hbit hg]
      refine advances_of_sameOutputs hbusy ?_ (by omega)
      rw [hrem, hrem', walkFrom_clear hbit hg, hself]
      exact (alike_self (endSlot_around s) rfl rfl rfl rfl).walkFrom_sameOutputs h.clean.errCode hbit
    | true =>
      have hleft' := stepsLeft_slotBegun (s := s)
      rw [walk_of_set hbit hg]
      refine advances_of_sameOutputs hbusy ?_ (by omega)
      rw [hrem, walkFrom_set hbit hg, hself]
      exact slotBegun_sameOutputs h hbit
  · rw [walk_of_end hbit.ge]
    exact advances_of_end (.inl rfl) (by rw [hrem, hbit, walkFrom_end h.raised])

theorem drop_descs (sl : Slot) {j : Nat} (hj : j ≤ 2) : sl.descs.drop j = sl.desc j :: sl.descs.drop (j + 1) := by
  interval_cases j <;> rfl

theorem runFetched_fetchSub_of_decode {s : State} {en : Entry} {i : Instr} (hen : s.entry? = some en)
    (hd : decodeDescriptor ((en.slot s.engine.bit.toNat).desc s.engine.sub.toNat) = .ok i) :
    runFetched (fetchSub s) s = exec i s := by
  simp only [fetchSub, hen, decode_descriptor, hd, runFetched]

theorem nextSub_advances {s t : State} {en : Entry} (h : At .sub t) (hbusy : t.out.state = .busy)
    (hen : t.entry? = some en)
    (hrem : remaining s = thenRun (finish (runSubs ((en.slot t.engine.bit.toNat).descs.drop (t.engine.sub.toNat + 1))
      (t.engine.sub.toNat + 1) t) endSlot) (walkFrom (t.engine.bit.toNat + 1)))
    (hleft : stepsLeft s = 4 * (7 - t.engine.bit.toNat) + (4 - t.engine.sub.toNat)) : Advances s (nextSub t) := by
  obtain ⟨hf, hbit, hsub⟩ := h
  unfold nextSub
  split
  · next h2 =>
    obtain ⟨hrem', hleft'⟩ := remaining_endSlot hbit
    refine advances_of_eq hbusy ?_ (by omega)
    rw [hrem, hrem', h2]
    exact thenRun_next_going _ (by simp [State.raised, hf.errCode])
  · next hne =>
    have hlt : t.engine.sub.toNat ≠ 2 := fun h2 => hne (BitVec.eq_of_toNat_eq h2)
    have hnext : (t.engine.sub + 1#2).toNat = t.engine.sub.toNat + 1 := by
      simp only [BitVec.toNat_add, BitVec.toNat_ofNat]
      omega
    have halike : Alike 0 0 t.out t.out t
        { t with engine := { t.engine with sub := t.engine.sub + 1#2, phase := .sub } } :=
      alike_self ⟨rfl, rfl, rfl, rfl, rfl, rfl, rfl, rfl⟩ rfl rfl rfl rfl
    obtain ⟨hrem', hleft'⟩ := remaining_sub
      (s := { t with engine := { t.engine with sub := t.engine.sub + 1#2, phase := .sub } }) rfl hen
    rw [hnext] at hrem' hleft'
    refine advances_of_sameOutputs hbusy ?_ (by rw [hleft, hleft']; dsimp only; omega)
    rw [hrem, hrem']
    exact (halike.runSubs rfl _ _).thenWalk_sameOutputs hf.errCode hbit

theorem sub_advances {s : State} (h : At .sub s) (hphase : s.engine.phase = .sub) (hbusy : s.out.state = .busy) :
    ∃ t, runFetched (fetchSub s) s = .next t ∧ Advances s t := by
  obtain ⟨hf, hbit, hsub⟩ := id h
  obtain ⟨en, hen⟩ := entry?_of_selected hf.selected
  obtain ⟨hrem, hleft⟩ := remaining_sub hphase hen
  have hself : atSub s.engine.sub.toNat s = s := by simp [atSub]
  rw [drop_descs _ hsub] at hrem
  have hlegal := Slot.descLegal_desc
    (slot_descLegal_of_wellFormed hf.config_ok (List.mem_of_getElem? hen) s.engine.bit.toNat) s.engine.sub.toNat
  rcases hlegal with ⟨-, hd⟩ | ⟨k, i, -, -, hd, hi⟩
  · refine ⟨endSlot s, runFetched_fetchSub_of_decode hen hd, ?_⟩
    obtain ⟨hrem', hleft'⟩ := remaining_endSlot hbit
    refine advances_of_eq hbusy ?_ (by omega)
    rw [hrem, hrem', runSubs_end _ _ hd rfl]
    exact thenRun_next_going _ h.raised
  · rw [runFetched_fetchSub_of_decode hen hd, exec_of_sub? hi]
    cases hm : memRead s.snap s.engine.cur.toNat (kindWidth k) with
    | none =>
      refine ⟨_, runKind_truncated hm, advances_of_end (.inr rfl) ?_⟩
      rw [hrem, runSubs_truncated _ _ hd hi hm, hself]
      exact thenRun_next_raised _ rfl
    | some raw =>
      rw [runSubs_read _ _ hd hi hm, hself] at hrem
      exact ⟨_, runKind_fits hm, nextSub_advances (t := afterRead k _ raw s) ⟨hf.afterRead _ hm, hbit, hsub⟩ hbusy hen
        hrem hleft⟩

theorem runFetched_advances {s : State} (h : s.Inv) (hbusy : s.out.state = .busy) :
    ∃ t, runFetched (fetch s) s = .next t ∧ Advances s t := by
  have hat := at_of_inv h hbusy
  unfold fetch
  cases hp : s.engine.phase <;> rw [hp] at hat
  case idle => exact hat.elim
  case lookup =>
    refine (dispatch_goesOn hat).advances (next := fromFlags) hbusy (by rw [remaining, hp]) fun t _ ht => ?_
    simp [remaining, stepsLeft, hp, ht]
  case flags =>
    refine (fetchFlags_goesOn hat).advances (next := fromNorm) hbusy (by rw [remaining, hp]; rfl) fun t _ ht => ?_
    simp [remaining, stepsLeft, hp, ht]
  case norm =>
    refine (norm_goesOn hat).advances (next := fromCheck) hbusy (by rw [remaining, hp]; rfl) fun t _ ht => ?_
    simp [remaining, stepsLeft, hp, ht]
  case check =>
    refine (checkAssigned_goesOn hat).advances (next := walkFrom 0) hbusy (by rw [remaining, hp]; rfl)
      fun t ht' ht => ?_
    obtain ⟨en, -, ⟨k, -, rfl⟩ | ⟨-, rfl⟩⟩ := checkAssigned_next ht'
    · cases ht
    · simp [remaining, stepsLeft, hp]
  case walk => exact ⟨_, rfl, walk_advances hat hp hbusy⟩
  case slot =>
    simp only [runFetched_fetchSlot]
    refine (runSlot_goesOn hat.1 hat.2).advances (next := walkFrom (s.engine.bit.toNat + 1)) hbusy
      (by rw [remaining, hp]) fun t ht' ht => ?_
    obtain ⟨hrem, hleft⟩ := remaining_walk ht
    have hbit : t.engine.bit.toNat = s.engine.bit.toNat + 1 := by
      have hlt := hat.2
      rw [runSlot_bit ht' ht]
      simp only [BitVec.toNat_add, BitVec.toNat_ofNat]
      omega
    rw [hbit] at hrem hleft
    exact ⟨hrem, by rw [hleft, (remaining_slot hp).2]; omega⟩
  case sub => exact sub_advances hat hp hbusy

/-! The run of a DECODE in progress. -/

theorem runSteps_succ {s t : State} (h : step s = .next t) (n : Nat) : runSteps (n + 1) s = runSteps n t := by
  rw [runSteps, h]

theorem stepsLeft_pos {s : State} (h : s.engine.phase ≠ .idle) : 0 < stepsLeft s := by
  have hsub := s.engine.sub.isLt
  unfold stepsLeft
  split
  case h_1 hidle => exact absurd hidle h
  all_goals omega

/-- Within n steps a DECODE in progress completes with the outputs left to give, BUSY before (R123). -/
theorem running_completes {n : Nat} {s : State} (h : s.Inv) (hrun : Running s.engine.phase s) (hn : stepsLeft s ≤ n) :
    ∃ m t, m ≤ n ∧ runSteps m s = .next t ∧ SameOutputs (remaining s) (.next t) ∧
      (t.out.state = .done ∨ t.out.state = .error) ∧
      ∀ i r, i < m → runSteps i s = .next r → r.out.state = .busy := by
  have hbusy : s.out.state = .busy := hrun.busy
  have hpos := stepsLeft_pos (h.busy_iff.1 hbusy)
  induction n generalizing s with
  | zero => omega
  | succ n ih =>
    obtain ⟨t, ht, hadv⟩ := runFetched_advances h hbusy
    have hstep : step s = .next t := (step_running hrun).trans ht
    have hinv : t.Inv := stepKeepsInvariant s t h hstep
    have hsucc := runSteps_succ hstep
    have hzero {r : State} (hr : runSteps 0 s = .next r) : r.out.state = .busy := by cases hr; exact hbusy
    unfold Advances at hadv
    split at hadv
    · next htbusy =>
      obtain ⟨hsame, hlt⟩ := hadv
      have haround := runFetched_around ht
      have hrun' : Running t.engine.phase t := by
        obtain ⟨hb, hr, hst, -, -⟩ := hrun
        exact ⟨by rw [haround.bus, hb], by rw [haround.inReset, hr], by rw [haround.inputs, hst], htbusy, rfl⟩
      obtain ⟨m, u, hm, hu, hout, hend, hbefore⟩ := ih hinv hrun' (by omega) htbusy
        (stepsLeft_pos (hinv.busy_iff.1 htbusy))
      refine ⟨m + 1, u, by omega, (hsucc m).trans hu, hsame.trans hout, hend, fun i r hi hr => ?_⟩
      cases i with
      | zero => exact hzero hr
      | succ i => exact hbefore i r (by omega) (hsucc i ▸ hr)
    · obtain ⟨hend, hsame⟩ := hadv
      refine ⟨1, t, by omega, hsucc 0, hsame, hend, fun i r hi hr => ?_⟩
      obtain rfl : i = 0 := by omega
      exact hzero hr

/-- Settles O53: the first step latches and begins the DECODE, and what is left then is the DECODE in one step. -/
theorem multiCycleDecodeAgreesWithTheAtomic : Obligations.MultiCycleDecodeAgreesWithTheAtomic := by
  unfold Obligations.MultiCycleDecodeAgreesWithTheAtomic
  intro s im h hstart hbus him
  have hinv (x : Impl) : ({ s with impl := x } : State).Inv := { h with }
  have haccepted (x : Impl) : StartAccepted { s with impl := x } := hstart
  have hbegin : step { s with impl := im } = .next (beginDecode (latch { s with impl := im })) := by
    rw [step_startAccepted (haccepted im), acceptStart]
    cases im with
    | atomic => exact absurd rfl him
    | slotwise | readwise => rfl
  obtain ⟨m, t, hm, hrun, hout, hend, hbefore⟩ := running_completes (n := 37) (stepKeepsInvariant _ _ (hinv im) hbegin)
    ⟨hbus, hstart.1, rfl, rfl, rfl⟩ le_rfl
  obtain ⟨u, hu, -⟩ := decodeMessage_latch_inv (hinv .atomic)
  have hatomic : step { s with impl := .atomic } = .next u := (step_startAccepted (haccepted .atomic)).trans hu
  have hsame : SameOutputs (decodeMessage (latch { s with impl := .atomic }))
      (remaining (beginDecode (latch { s with impl := im }))) := by
    rw [remaining_beginDecode]
    exact decodeMessage_sameOutputs rfl ⟨rfl, rfl, fun _ => rfl, fun _ _ => rfl⟩
  have hsucc := runSteps_succ hbegin
  refine ⟨m + 1, t, u, by omega, by omega, hatomic, (hsucc m).trans hrun, ?_, hend, fun i r hi him hr => ?_⟩
  · have := hsame.trans hout
    rw [hu] at this
    exact this.symm
  · obtain ⟨i, rfl⟩ := Nat.exists_eq_succ_of_ne_zero hi.ne'
    exact hbefore i r (by omega) (hsucc i ▸ hr)

end Sys2Proof.Machine
end

section
/-! PROOF. The conversions but FP16_ENG are injective: a result is nearer to its own raw value's multiple of the scale
than to any other (40_dispatch_and_walk.md R122; 41_field_kinds.md R130 to R140). -/

namespace Sys2Proof.Machine

/-! The relative error of a rounding. -/

theorem signOf_mul_natAbs (x : ℤ) : signOf (decide (x < 0)) * (x.natAbs : ℚ) = x := by
  rw [Nat.cast_natAbs, Int.cast_abs]
  rcases lt_or_ge x 0 with h | h
  · rw [abs_of_neg (by exact_mod_cast h)]
    simp [signOf, h]
  · rw [abs_of_nonneg (by exact_mod_cast h)]
    simp [signOf, not_lt.2 h]

@[simp] theorem f64Value_zero : f64Value 0#64 = 0 := by
  have hs : f64Significand 0#64 = 0 := by decide
  simp [f64Value, hs]

theorem two_pow_lt_top (k : Nat) : 2 ^ k < 2 ^ (k + 54) - 2 ^ k := by
  have hpos : 0 < 2 ^ k := by positivity
  rw [pow_add]
  omega

theorem le_mul_two_pow {d n j k : Nat} (h : d ≤ n * 2 ^ j) (hjk : j ≤ k) : d ≤ n * 2 ^ k :=
  h.trans (Nat.mul_le_mul_left n (Nat.pow_le_pow_right two_pos hjk))

/-- A rounding in the normal range is within half a last place, 2 ^ -53 of the quotient at most (R12). -/
theorem abs_f64Value_rne_sub_le (neg : Bool) {n d : Nat} (hd : 0 < d) (hlo : n = 0 ∨ 1 ≤ (n : ℚ) / d * 2 ^ 30)
    (hhi : (n : ℚ) / d ≤ 2 ^ 30) : |f64Value (rne neg n d) - signOf neg * (n / d)| ≤ (n : ℚ) / d / 2 ^ 53 := by
  rcases n.eq_zero_or_pos with rfl | hn
  · have h0 : rne neg 0 d = 0#64 := rfl
    simp [h0]
  have hd' : (0 : ℚ) < d := by exact_mod_cast hd
  have hge : d ≤ n * 2 ^ 30 := by
    have := hlo.resolve_left hn.ne'
    rw [div_mul_eq_mul_div, le_div_iff₀ hd', one_mul] at this
    exact_mod_cast this
  have hle : n ≤ d * 2 ^ 30 := by
    rw [div_le_iff₀' hd'] at hhi
    exact_mod_cast hhi
  have hlo' : d ≤ n * 2 ^ 1022 := le_mul_two_pow hge (by decide)
  have hhi' : n < d * (2 ^ 1024 - 2 ^ 970) := by
    have htop := two_pow_lt_top 970
    rw [show 970 + 54 = 1024 from rfl] at htop
    exact (le_mul_two_pow hle (by decide)).trans_lt (Nat.mul_lt_mul_of_pos_left htop hd)
  obtain ⟨-, -, hval⟩ := rne_of_normal hn hd hlo' hhi' neg
  have hu : (0 : ℚ) < 2 ^ (floorLog2 n d - 52) := by positivity
  have hulp : (2 : ℚ) ^ (floorLog2 n d - 52) = 2 ^ floorLog2 n d / 2 ^ 52 := by
    rw [zpow_sub₀ two_ne_zero]
    norm_num
  have hnear := mul_le_mul_of_nonneg_right (abs_normalSignificand_sub_le (n := n) hd) hu.le
  rw [← abs_of_pos hu, ← abs_mul, abs_of_pos hu, sub_mul, div_mul_cancel₀ _ hu.ne'] at hnear
  rw [hval, ← mul_sub, abs_signOf_mul]
  refine hnear.trans ?_
  have := (floorLog2_spec hn hd).1
  rw [hulp]
  linarith

/-! Results near the multiples of a scale. -/

/-- The result is the multiple x of the scale c, but for a relative error of 2 ^ -50. -/
def NearMultiple (x : ℤ) (c v : ℚ) : Prop := |v - x * c| ≤ |(x : ℚ)| * c / 2 ^ 50

/-- Up to the largest raw value the multiples stand farther apart than the errors reach. -/
theorem eq_of_nearMultiple {x y : ℤ} {c v : ℚ} (hc : 0 < c) (hx : |x| ≤ 65535) (hy : |y| ≤ 65535)
    (h : NearMultiple x c v) (h' : NearMultiple y c v) : x = y := by
  by_contra hne
  have hx' : |(x : ℚ)| ≤ 65535 := by exact_mod_cast hx
  have hy' : |(y : ℚ)| ≤ 65535 := by exact_mod_cast hy
  have hdist : (1 : ℚ) ≤ |(x : ℚ) - y| := by exact_mod_cast Int.one_le_abs (sub_ne_zero.2 hne)
  have hapart : c ≤ |v - x * c| + |v - y * c| := by
    calc c ≤ |(x : ℚ) - y| * c := le_mul_of_one_le_left hc.le hdist
      _ = |x * c - y * c| := by rw [← sub_mul, abs_mul, abs_of_pos hc]
      _ ≤ |v - x * c| + |v - y * c| := by
        rw [abs_sub_comm v]
        exact abs_sub_le _ _ _
  have hxc : |(x : ℚ)| * c ≤ 65535 * c := mul_le_mul_of_nonneg_right hx' hc.le
  have hyc : |(y : ℚ)| * c ≤ 65535 * c := mul_le_mul_of_nonneg_right hy' hc.le
  unfold NearMultiple at h h'
  linarith

/-- One rounding of a multiple of m / d. -/
theorem nearMultiple_rne {x : ℤ} {m d : Nat} (hx : |x| ≤ 65535) (hm : 0 < m) (hm' : m ≤ 100) (hd : 0 < d)
    (hd' : d ≤ 65536) : NearMultiple x (m / d) (f64Value (rne (decide (x < 0)) (x.natAbs * m) d)) := by
  have hdq : (0 : ℚ) < d := by exact_mod_cast hd
  have hdq' : (d : ℚ) ≤ 65536 := by exact_mod_cast hd'
  have hnat : x.natAbs ≤ 65535 := by rw [abs_le] at hx; omega
  have hlo : x.natAbs * m = 0 ∨ 1 ≤ ((x.natAbs * m : Nat) : ℚ) / d * 2 ^ 30 := by
    refine (Nat.eq_zero_or_pos _).imp_right fun hpos => ?_
    have : (1 : ℚ) ≤ (x.natAbs * m : Nat) := by exact_mod_cast hpos
    rw [div_mul_eq_mul_div, le_div_iff₀ hdq]
    linarith
  have hhi : ((x.natAbs * m : Nat) : ℚ) / d ≤ 2 ^ 30 := by
    have h1 : (1 : ℚ) ≤ d := by exact_mod_cast hd
    have h2 : ((x.natAbs * m : Nat) : ℚ) ≤ 65535 * 100 := by exact_mod_cast Nat.mul_le_mul hnat hm'
    rw [div_le_iff₀ hdq]
    linarith
  have hnear := abs_f64Value_rne_sub_le (decide (x < 0)) hd hlo hhi
  rw [Nat.cast_mul, mul_div_assoc, ← mul_assoc, signOf_mul_natAbs, Nat.cast_natAbs, Int.cast_abs] at hnear
  exact hnear.trans (div_le_div_of_nonneg_left (by positivity) (by positivity) (by norm_num))

theorem nearMultiple_rne_nat {x m d n : Nat} {c : ℚ} (hx : x ≤ 65535) (hn : n = x * m) (hc : c = m / d)
    (hbounds : 0 < m ∧ m ≤ 100 ∧ 0 < d ∧ d ≤ 65536) : NearMultiple x c (f64Value (rne false n d)) := by
  obtain ⟨hm, hm', hd, hd'⟩ := hbounds
  have hx' : |(x : ℤ)| ≤ 65535 := by rw [abs_le]; omega
  have hsign : decide ((x : ℤ) < 0) = false := decide_eq_false (by omega)
  have hnear := nearMultiple_rne hx' hm hm' hd hd'
  rwa [hsign, Int.natAbs_natCast, ← hn, ← hc] at hnear

/-- The magnitude of a value as the fraction its fields give. -/
theorem f64Num_div_f64Den (b : F64) : (f64Num b : ℚ) / f64Den b = |f64Value b| := by
  rw [abs_f64Value, zpow_split, f64Num, f64Den]
  push_cast
  ring

theorem f64Den_pos (b : F64) : 0 < f64Den b := Nat.two_pow_pos _

/-- The two roundings of U16_PCT (R139). -/
theorem nearMultiple_convU16Pct (raw : Half) :
    NearMultiple raw.toNat (100 / 65535) (f64Value (convU16Pct raw)) := by
  rcases Nat.eq_zero_or_pos raw.toNat with h0 | hpos
  · obtain rfl : raw = 0#16 := BitVec.eq_of_toNat_eq h0
    have hzero : convU16Pct 0#16 = 0#64 := rfl
    simp [NearMultiple, hzero]
  obtain ⟨y, hy⟩ : ∃ y : ℚ, y = (raw.toNat : ℚ) / 65535 := ⟨_, rfl⟩
  obtain ⟨q, hq⟩ : ∃ q, q = rne false raw.toNat 65535 := ⟨_, rfl⟩
  have hraw := raw.isLt
  have hlow : 1 / 65535 ≤ y := by
    have : (1 : ℚ) ≤ raw.toNat := by exact_mod_cast hpos
    rw [hy]
    linarith
  have hhigh : y ≤ 2 := by
    have : (raw.toNat : ℚ) < 65536 := by exact_mod_cast hraw
    rw [hy]
    linarith
  have hfirst := abs_f64Value_rne_sub_le false (n := raw.toNat) (d := 65535) (by decide)
    (.inr (by push_cast; linarith)) (by push_cast; linarith)
  rw [Nat.cast_ofNat, ← hy, ← hq, signOf, if_neg Bool.false_ne_true, one_mul, abs_le] at hfirst
  have hfrac : ((f64Num q * 100 : Nat) : ℚ) / f64Den q = f64Value q * 100 := by
    have hnonneg : 0 ≤ f64Value q := by linarith
    rw [Nat.cast_mul, mul_div_right_comm, f64Num_div_f64Den, abs_of_nonneg hnonneg, Nat.cast_ofNat]
  have hsecond := abs_f64Value_rne_sub_le false (f64Den_pos q) (n := f64Num q * 100)
    (.inr (by rw [hfrac]; linarith)) (by rw [hfrac]; linarith)
  rw [hfrac, signOf, if_neg Bool.false_ne_true, one_mul, abs_le] at hsecond
  have hval : convU16Pct raw = rne false (f64Num q * 100) (f64Den q) := by rw [hq]; rfl
  have hprod : (raw.toNat : ℚ) * (100 / 65535) = y * 100 := by rw [hy]; ring
  rw [NearMultiple, hval, Int.cast_natCast, Nat.abs_cast, hprod, abs_le]
  constructor <;> linarith

/-- The raw value a kind converts, signed where the kind is (R133, R134). -/
def rawValue (k : Kind) (raw : Half) : ℤ :=
  match k with
  | .s16Q12 | .s16Q8 => s16 raw
  | .u8Raw | .u16Q8 | .u16P4 | .u8Pct | .u16Raw | .u16Pct | .fp16Eng => raw.toNat

/-- What a kind but FP16_ENG multiplies its raw value by (R132 to R139). -/
def kindScale (k : Kind) : ℚ :=
  match k with
  | .u8Raw | .u16Raw | .fp16Eng => 1
  | .s16Q12 => 1 / 4096
  | .s16Q8 | .u16Q8 => 1 / 256
  | .u16P4 => 4 / 100
  | .u8Pct => 100 / 256
  | .u16Pct => 100 / 65535

theorem kindScale_pos (k : Kind) : 0 < kindScale k := by cases k <;> norm_num [kindScale]

theorem abs_s16_le (raw : Half) : |s16 raw| ≤ 65535 := by
  have := raw.isLt
  rw [s16_eq_signed16, signed16, abs_le]
  split <;> omega

theorem abs_toNat_le (raw : Half) : |(raw.toNat : ℤ)| ≤ 65535 := by
  have := raw.isLt
  rw [abs_le]
  omega

theorem s16_injective : Function.Injective s16 := by
  intro a b h
  have := a.isLt
  have := b.isLt
  rw [s16_eq_signed16, s16_eq_signed16, signed16, signed16] at h
  apply BitVec.eq_of_toNat_eq
  split at h <;> split at h <;> omega

theorem rawValue_injective (k : Kind) : Function.Injective (rawValue k) := by
  cases k with
  | s16Q12 | s16Q8 => exact s16_injective
  | u8Raw | u16Q8 | u16P4 | u8Pct | u16Raw | u16Pct | fp16Eng =>
    exact fun a b h => BitVec.eq_of_toNat_eq (Int.ofNat_inj.1 h)

theorem abs_rawValue_le (k : Kind) (raw : Half) : |rawValue k raw| ≤ 65535 := by
  cases k with
  | s16Q12 | s16Q8 => exact abs_s16_le raw
  | u8Raw | u16Q8 | u16P4 | u8Pct | u16Raw | u16Pct | fp16Eng => exact abs_toNat_le raw

/-- A result is the multiple of its kind's scale that its raw value says (R132 to R139). -/
theorem nearMultiple_convert {k : Kind} (hk : k ≠ .fp16Eng) (raw : Half) :
    NearMultiple (rawValue k raw) (kindScale k) (f64Value (convert k raw)) := by
  have hle : raw.toNat ≤ 65535 := Nat.le_of_lt_succ raw.isLt
  have hsigned {d : Nat} {c : ℚ} (hc : c = 1 / d) (hd : 0 < d ∧ d ≤ 65536) :
      NearMultiple (s16 raw) c (f64Value (rne (decide (s16 raw < 0)) (s16 raw).natAbs d)) := by
    have hnear := nearMultiple_rne (abs_s16_le raw) one_pos (by decide) hd.1 hd.2
    rwa [Nat.mul_one, Nat.cast_one, ← hc] at hnear
  cases k with
  | fp16Eng => exact absurd rfl hk
  | u16Pct => exact nearMultiple_convU16Pct raw
  | s16Q12 | s16Q8 => exact hsigned (by norm_num [kindScale]) (by decide)
  | u8Raw | u16Raw | u16Q8 =>
    exact nearMultiple_rne_nat (m := 1) hle (Nat.mul_one _).symm (by norm_num [kindScale]) (by decide)
  | u16P4 | u8Pct => exact nearMultiple_rne_nat hle rfl (by norm_num [kindScale]) (by decide)

/-- Settles O57: equal results are near the multiples of both raw values; FP16_ENG's exponent makes up for its
mantissa. -/
theorem conversionsAreInjectiveButOne : Obligations.ConversionsAreInjectiveButOne := by
  unfold Obligations.ConversionsAreInjectiveButOne
  refine ⟨fun k a b hk _ h => rawValue_injective k ?_, ?_⟩
  · refine eq_of_nearMultiple (kindScale_pos k) (abs_rawValue_le k a) (abs_rawValue_le k b) (nearMultiple_convert hk a) ?_
    exact h ▸ nearMultiple_convert hk b
  · have hnum : fp16Mant 0x0800#16 * 2 ^ fp16Exp 0x0800#16 = fp16Mant 0x1400#16 * 2 ^ fp16Exp 0x1400#16 := by decide
    simp only [convert, convFp16Eng, hnum]

end Sys2Proof.Machine
end

section
/-! PROOF. What every conversion computes, exact or rounded (00_scope.md R12; 41_field_kinds.md R132 to R140). -/

namespace Sys2Proof.Machine

/-! Numerators below `2 ^ 53` over a power of two are exact. -/

/-- The bounds of the normal range, from bounds far inside it. -/
theorem normal_of_bounds {n d j : Nat} (hd : 0 < d) (hlo : d ≤ n * 2 ^ j) (hj : j ≤ 1022) (hhi : n ≤ d * 2 ^ 53) :
    d ≤ n * 2 ^ 1022 ∧ n < d * (2 ^ 1024 - 2 ^ 970) := by
  have htop := two_pow_lt_top 970
  rw [show 970 + 54 = 1024 from rfl] at htop
  exact ⟨le_mul_two_pow hlo hj, (le_mul_two_pow hhi (by decide)).trans_lt (Nat.mul_lt_mul_of_pos_left htop hd)⟩

/-- A quotient that is a multiple of its last place has that multiple as its significand. -/
theorem normalSignificand_of_multiple {n d : Nat} (hd : 0 < d) {z : ℤ}
    (hz : (n : ℚ) / d = z * 2 ^ (floorLog2 n d - 52)) : (normalSignificand n d : ℚ) = z := by
  obtain ⟨hnear, -⟩ := normalSignificand_isNearestEven (n := n) hd z
  rw [hz, mul_div_cancel_right₀ _ (zpow_ne_zero _ two_ne_zero), sub_self, abs_zero] at hnear
  exact sub_eq_zero.1 (abs_nonpos_iff.1 hnear)

/-- Below `2 ^ 53` over a power of two the leading bit is so low that the last place divides the quotient. -/
theorem multiple_of_ulp_of_lt {n k : Nat} (hn : 0 < n) (hlt : n < 2 ^ 53) :
    ∃ z : ℤ, (n : ℚ) / (2 ^ k : Nat) = z * 2 ^ (floorLog2 n (2 ^ k) - 52) := by
  have hquot : (n : ℚ) / (2 ^ k : Nat) = n * 2 ^ (-(k : ℤ)) := by
    rw [zpow_neg, zpow_natCast, Nat.cast_pow, Nat.cast_ofNat, div_eq_mul_inv]
  have hlog : floorLog2 n (2 ^ k) < 53 - k := by
    have hn' : (n : ℚ) < 2 ^ (53 : ℤ) := by exact_mod_cast hlt
    refine (zpow_lt_zpow_iff_right₀ (one_lt_two : (1 : ℚ) < 2)).1 ?_
    calc (2 : ℚ) ^ floorLog2 n (2 ^ k) ≤ n * 2 ^ (-(k : ℤ)) := hquot ▸ (floorLog2_spec hn (Nat.two_pow_pos k)).1
      _ < 2 ^ (53 : ℤ) * 2 ^ (-(k : ℤ)) := mul_lt_mul_of_pos_right hn' (by positivity)
      _ = 2 ^ (53 - k : ℤ) := by rw [← zpow_add₀ two_ne_zero, sub_eq_add_neg]
  refine ⟨n * (2 ^ (-(k : ℤ) - (floorLog2 n (2 ^ k) - 52)).toNat : Nat), ?_⟩
  rw [hquot, two_zpow_eq_natCast_mul (by omega : floorLog2 n (2 ^ k) - 52 ≤ -(k : ℤ)), ← mul_assoc]
  push_cast
  rfl

/-- A rounding of such a quotient is the quotient itself (R12, R144). -/
theorem isF64_rne (neg : Bool) {n d : Nat} (k : Nat) (hlt : n < 2 ^ 53) (hd : d = 2 ^ k) (hk : k ≤ 1022) :
    IsF64 (signOf neg * (n / d)) (rne neg n d) := by
  subst hd
  rcases n.eq_zero_or_pos with rfl | hn
  · exact ⟨(isRne_zero neg _).1, by simp [rne], fun _ => rfl⟩
  have hpos : 0 < 2 ^ k := Nat.two_pow_pos k
  obtain ⟨hlo, hhi⟩ := normal_of_bounds hpos (Nat.le_mul_of_pos_left _ hn) hk
    (hlt.le.trans (Nat.le_mul_of_pos_left _ hpos))
  obtain ⟨hfin, -, hval⟩ := rne_of_normal hn hpos hlo hhi neg
  obtain ⟨z, hz⟩ := multiple_of_ulp_of_lt (k := k) hn hlt
  rw [normalSignificand_of_multiple hpos hz, ← hz] at hval
  refine ⟨hfin, hval, fun h0 => ?_⟩
  have hquot : (n : ℚ) / (2 ^ k : Nat) ≠ 0 := by positivity
  exact absurd h0 (mul_ne_zero (signOf_ne_zero neg) hquot)

theorem isF64_rne_nat {n d : Nat} (k : Nat) (hlt : n < 2 ^ 53) (hd : d = 2 ^ k) (hk : k ≤ 1022) :
    IsF64 (n / d) (rne false n d) := by
  simpa [signOf] using isF64_rne false k hlt hd hk

/-! Rounding does not cross a binary64 number. -/

theorem IsRne.le_of_le {q : ℚ} {b c : F64} (h : IsRne q b) (hc : F64Finite c) (hq : q ≤ f64Value c) :
    f64Value b ≤ f64Value c := by
  by_contra hlt
  obtain ⟨-, hnearest, -⟩ := h
  have hnear := hnearest c hc
  rw [abs_of_nonneg (by linarith), abs_of_nonneg (by linarith)] at hnear
  linarith

theorem IsRne.ge_of_ge {q : ℚ} {b c : F64} (h : IsRne q b) (hc : F64Finite c) (hq : f64Value c ≤ q) :
    f64Value c ≤ f64Value b := by
  by_contra hlt
  obtain ⟨-, hnearest, -⟩ := h
  have hnear := hnearest c hc
  rw [abs_of_nonpos (by linarith), abs_of_nonpos (by linarith)] at hnear
  linarith

/-- Between two such quotients a rounding stays between them. -/
theorem IsRne.mem_Icc {q : ℚ} {b : F64} (h : IsRne q b) {m n k : Nat} (hm : m < 2 ^ 53) (hn : n < 2 ^ 53)
    (hk : k ≤ 1022) (hq : q ∈ Set.Icc ((m : ℚ) / (2 ^ k : Nat)) (n / (2 ^ k : Nat))) :
    f64Value b ∈ Set.Icc ((m : ℚ) / (2 ^ k : Nat)) (n / (2 ^ k : Nat)) := by
  obtain ⟨hmfin, hmval, -⟩ := isF64_rne_nat k hm rfl hk
  obtain ⟨hnfin, hnval, -⟩ := isF64_rne_nat k hn rfl hk
  rw [← hmval, ← hnval] at hq ⊢
  exact ⟨h.ge_of_ge hmfin hq.1, h.le_of_le hnfin hq.2⟩

/-! What a conversion gives. -/

/-- `b` is the conversion of the raw value v of a kind (R132 to R140). -/
def Converts (k : Kind) (v : Nat) (b : F64) : Prop :=
  match k with
  | .u8Raw | .u16Raw => IsF64 v b
  | .s16Q12 => IsF64 ((signed16 v : ℚ) / 4096) b
  | .s16Q8 => IsF64 ((signed16 v : ℚ) / 256) b
  | .u16Q8 => IsF64 ((v : ℚ) / 256) b
  | .u16P4 => IsRne ((v : ℚ) * 4 / 100) b
  | .u8Pct => IsF64 ((v : ℚ) * 100 / 256) b
  | .u16Pct => ∃ q, IsRne ((v : ℚ) / 65535) q ∧ IsRne (f64Value q * 100) b
  | .fp16Eng => IsF64 (((v % 4096 : Nat) : ℚ) / 4096 * (2 : ℚ) ^ (((v / 4096 : Nat) : Int) - 15) * 3600 * 4) b

theorem isF64_rne_s16 (raw : Half) {d : Nat} (k : Nat) (hd : d = 2 ^ k) (hk : k ≤ 1022) :
    IsF64 ((signed16 raw.toNat : ℚ) / d) (rne (decide (s16 raw < 0)) (s16 raw).natAbs d) := by
  have hle := abs_le.1 (abs_s16_le raw)
  have hexact := isF64_rne (decide (s16 raw < 0)) (n := (s16 raw).natAbs) k (by omega) hd hk
  rw [← s16_eq_signed16]
  rwa [← mul_div_assoc, signOf_mul_natAbs] at hexact

theorem fp16Mant_eq_mod (raw : Half) : fp16Mant raw = raw.toNat % 4096 := by
  simp [fp16Mant, BitVec.extractLsb'_toNat]

theorem fp16Exp_eq_div (raw : Half) : fp16Exp raw = raw.toNat / 4096 := by
  have := raw.isLt
  simp only [fp16Exp, BitVec.extractLsb'_toNat, Nat.shiftRight_eq_div_pow]
  omega

/-- A rounding of a small numerator. -/
theorem isRne_rne_of_bounds {n d j : Nat} (hd : 0 < d) (hj : j ≤ 1022) (hlo : 0 < n → d ≤ n * 2 ^ j)
    (hhi : n ≤ d * 2 ^ 53) : IsRne ((n : ℚ) / d) (rne false n d) := by
  have hrange : n = 0 ∨ d ≤ n * 2 ^ 1022 ∧ n < d * (2 ^ 1024 - 2 ^ 970) :=
    n.eq_zero_or_pos.imp_right fun hn => normal_of_bounds hd (hlo hn) hj hhi
  simpa using rneRoundsToNearestEven false n d hd hrange

/-- The fraction of a binary64 number between `2 ^ -16` and 1, or zero, is far inside the normal range. -/
theorem isRne_rne_mul_100 {q : F64} (h : f64Value q = 0 ∨ f64Value q ∈ Set.Icc (1 / 2 ^ 16) 1) :
    IsRne (f64Value q * 100) (rne false (f64Num q * 100) (f64Den q)) := by
  have hnonneg : 0 ≤ f64Value q := h.elim (·.ge) fun h => le_trans (by norm_num) h.1
  have hden : (0 : ℚ) < f64Den q := by exact_mod_cast f64Den_pos q
  have hfrac := f64Num_div_f64Den q
  rw [abs_of_nonneg hnonneg] at hfrac
  have hnum : (f64Num q : ℚ) = f64Value q * f64Den q := by rw [← hfrac, div_mul_cancel₀ _ hden.ne']
  have hgoal : f64Value q * 100 = (f64Num q * 100 : Nat) / f64Den q := by
    rw [← hfrac]
    push_cast
    ring
  rw [hgoal]
  refine isRne_rne_of_bounds (f64Den_pos q) (by decide : 16 ≤ 1022) (fun hpos => ?_) ?_
  · have hne : f64Value q ≠ 0 := by
      rintro h0
      rw [h0, zero_mul] at hnum
      have : f64Num q = 0 := by exact_mod_cast hnum
      omega
    have hlow := mul_le_mul_of_nonneg_right (h.resolve_left hne).1 hden.le
    qify
    linarith
  · have hhigh : f64Value q ≤ 1 := h.elim (fun h => h ▸ zero_le_one) (·.2)
    have := mul_le_mul_of_nonneg_right hhigh hden.le
    qify
    linarith

/-- A rounding of a fraction of 65535 is zero or lies between `2 ^ -16` and 1. -/
theorem f64Value_of_isRne_fraction {v : Nat} (hv : v ≤ 65535) {q : F64} (h : IsRne ((v : ℚ) / 65535) q) :
    f64Value q = 0 ∨ f64Value q ∈ Set.Icc (1 / 2 ^ 16) 1 := by
  have hv' : (v : ℚ) ≤ 65535 := by exact_mod_cast hv
  rcases v.eq_zero_or_pos with rfl | hpos
  · have hmem := h.mem_Icc (m := 0) (n := 0) (k := 0) (by decide) (by decide) (by decide) (by simp)
    exact .inl (by simpa using hmem)
  · have hpos' : (1 : ℚ) ≤ v := by exact_mod_cast hpos
    have hmem := h.mem_Icc (m := 1) (n := 2 ^ 16) (k := 16) (by decide) (by decide) (by decide)
      ⟨by norm_num; linarith, by norm_num; linarith⟩
    exact .inr (by norm_num at hmem ⊢; exact hmem)

/-- The two roundings of U16_PCT (R139). -/
theorem converts_convU16Pct (raw : Half) : Converts .u16Pct raw.toNat (convU16Pct raw) := by
  have hlt := raw.isLt
  have hfirst : IsRne ((raw.toNat : ℚ) / 65535) (rne false raw.toNat 65535) := by
    simpa using isRne_rne_of_bounds (n := raw.toNat) (d := 65535) (j := 16) (by decide) (by decide) (by omega)
      (by omega)
  exact ⟨_, hfirst, isRne_rne_mul_100 (f64Value_of_isRne_fraction (by omega) hfirst)⟩

/-- The product of R140 as a fraction of `2 ^ 27`. -/
theorem fp16_product (m e : Nat) :
    (m : ℚ) / 4096 * (2 : ℚ) ^ ((e : Int) - 15) * 3600 * 4 = (m * 2 ^ e * 14400 : Nat) / (4096 * 2 ^ 15 : Nat) := by
  rw [zpow_sub₀ two_ne_zero, zpow_natCast]
  push_cast
  ring

theorem fp16_numerator_le {v : Nat} (hv : v ≤ 65535) : v % 4096 * 2 ^ (v / 4096) ≤ 4095 * 2 ^ 15 :=
  Nat.mul_le_mul (by omega) (Nat.pow_le_pow_right two_pos (by omega))

theorem converts_convFp16Eng (raw : Half) : Converts .fp16Eng raw.toNat (convFp16Eng raw) := by
  have hnum := fp16_numerator_le (Nat.le_of_lt_succ raw.isLt)
  rw [Converts, convFp16Eng, fp16Mant_eq_mod, fp16Exp_eq_div, fp16_product]
  exact isF64_rne_nat 27 (by omega) rfl (by decide)

/-- Every conversion is what its rule says (R132 to R140). -/
theorem converts_convert (k : Kind) (raw : Half) : Converts k raw.toNat (convert k raw) := by
  have hlt := raw.isLt
  cases k with
  | u16Pct => exact converts_convU16Pct raw
  | fp16Eng => exact converts_convFp16Eng raw
  | s16Q12 => exact isF64_rne_s16 raw 12 rfl (by decide)
  | s16Q8 => exact isF64_rne_s16 raw 8 rfl (by decide)
  | u8Raw | u16Raw =>
    have h := isF64_rne_nat (n := raw.toNat) 0 (by omega) rfl (by decide)
    rwa [pow_zero, Nat.cast_one, div_one] at h
  | u16Q8 => exact isF64_rne_nat 8 (by omega) rfl (by decide)
  | u8Pct =>
    have h := isF64_rne_nat (n := raw.toNat * 100) 8 (by omega) rfl (by decide)
    rwa [Nat.cast_mul] at h
  | u16P4 =>
    have h := isRne_rne_of_bounds (n := raw.toNat * 4) (d := 100) (j := 7) (by decide) (by decide) (by omega) (by omega)
    rwa [Nat.cast_mul] at h

end Sys2Proof.Machine
end

section
/-! PROOF. A kind row delivers the conversion of its bytes or raises TruncatedBuffer (41_field_kinds.md R130 to R140;
40_dispatch_and_walk.md R112). -/

namespace Sys2Proof.Machine

/-- The raw value of a width at an address of a snapshot as an integer (R77, R78). -/
def rawAt (w : Width) (sn : Snapshot) (a : Nat) : Nat :=
  match w with
  | .one => rawByte sn a
  | .two => rawPair sn a

theorem memRead_of_fits {w : Width} {sn : Snapshot} {a : Nat} (h : a + w.bytes ≤ sn.len.toNat) :
    ∃ raw, memRead sn a w = some raw ∧ raw.toNat = rawAt w sn a := by
  cases w with
  | one => exact ⟨_, memRead_one h, toNat_setWidth_byte _⟩
  | two => exact ⟨_, memRead_two h, toNat_bigEndian _ _⟩

/-- Both outcomes of a kind row: its value where the bytes fit, the error where they do not (R112, R183). -/
theorem runKind_delivers (k : Kind) (key : Key) (s : State) :
    (s.engine.cur.toNat + (kindWidth k).bytes ≤ s.snap.len.toNat →
      ∃ v, Converts k (rawAt (kindWidth k) s.snap s.engine.cur.toNat) v ∧
        runKind k key s = .next (afterSub (kindWidth k).bytes key v s)) ∧
    (s.snap.len.toNat < s.engine.cur.toNat + (kindWidth k).bytes →
      runKind k key s = .next (raiseError .truncatedBuffer s.engine.bit s.engine.cur
        (BitVec.ofNat 2 (kindWidth k).bytes) s)) := by
  refine ⟨fun hfit => ?_, fun hover => runKind_truncated (memRead_eq_none.2 hover)⟩
  obtain ⟨raw, hm, hraw⟩ := memRead_of_fits hfit
  exact ⟨convert k raw, hraw ▸ converts_convert k raw, runKind_fits hm⟩

/-- Settles O31: the byte is its own quotient by 1. -/
theorem u8RawDeliversTheByte : Obligations.U8RawDeliversTheByte :=
  runKind_delivers .u8Raw

/-- Settles O32: a signed numerator over `2 ^ 12`. -/
theorem s16Q12DividesBy4096 : Obligations.S16Q12DividesBy4096 :=
  runKind_delivers .s16Q12

/-- Settles O33: a signed numerator over `2 ^ 8`. -/
theorem s16Q8DividesBy256 : Obligations.S16Q8DividesBy256 :=
  runKind_delivers .s16Q8

/-- Settles O34: an unsigned numerator over `2 ^ 8`. -/
theorem u16Q8DividesUnsignedBy256 : Obligations.U16Q8DividesUnsignedBy256 :=
  runKind_delivers .u16Q8

/-- Settles O35: one rounding in the normal range. -/
theorem u16P4RoundsOnce : Obligations.U16P4RoundsOnce :=
  runKind_delivers .u16P4

/-- Settles O36: the byte times 100 over `2 ^ 8`. -/
theorem u8PctScalesTheByte : Obligations.U8PctScalesTheByte :=
  runKind_delivers .u8Pct

/-- Settles O37: the pair is its own quotient by 1. -/
theorem u16RawDeliversTheValue : Obligations.U16RawDeliversTheValue :=
  runKind_delivers .u16Raw

/-- Settles O38: the first rounding is zero or well inside the normal range, so the second rounds its hundredfold. -/
theorem u16PctRoundsTwice : Obligations.U16PctRoundsTwice := by
  unfold Obligations.U16PctRoundsTwice
  intro key s
  obtain ⟨hfits, htruncated⟩ := runKind_delivers .u16Pct key s
  refine ⟨fun hfit => ?_, htruncated⟩
  obtain ⟨v, ⟨q, hq, hv⟩, hrun⟩ := hfits hfit
  exact ⟨q, v, hq, hv, hrun⟩

/-- Settles O39: the product is a numerator below `2 ^ 53` over `2 ^ 27`. -/
theorem fp16EngScalesTheMantissa : Obligations.Fp16EngScalesTheMantissa :=
  runKind_delivers .fp16Eng

end Sys2Proof.Machine
end

section
/-! PROOF. A slot whose bytes fit delivers its fields in order (40_dispatch_and_walk.md R112, R113; 41_field_kinds.md
R141, R142). -/

namespace Sys2Proof.Machine

/-- The descriptor of a field (R83). -/
def fieldDesc (f : Kind × Key) : Half := encodeDescriptor f.1.code f.2

/-- The bytes fields take (R86). -/
def fieldBytes (fields : List (Kind × Key)) : Nat := (fields.map fun f => (kindWidth f.1).bytes).sum

/-- Reading the fields from address a turns the pending result p into q, each field from its place under its key
(R112). -/
def ReadsInto (sn : Snapshot) (fields : List (Kind × Key)) (a : Nat) (p q : ResultFile) : Prop :=
  match fields with
  | [] => q = p
  | (k, key) :: rest =>
    ∃ v, Converts k (rawAt (kindWidth k) sn a) v ∧ ReadsInto sn rest (a + (kindWidth k).bytes) (p.put key v) q

/-- The state n bytes further, with q pending and `SUB` at j. -/
def advanced (n : Nat) (q : ResultFile) (j : BitVec 2) (s : State) : State :=
  { s with engine := { s.engine with cur := s.engine.cur + BitVec.ofNat 8 n, sub := j, pend := q } }

theorem advanced_zero (s : State) : advanced 0 s.engine.pend s.engine.sub s = s := by
  simp [advanced]

theorem advanced_afterRead (n : Nat) (q : ResultFile) (i : BitVec 2) (k : Kind) (key : Key) (raw : Half) (j : Nat)
    (s : State) :
    advanced n q i (afterRead k key raw (atSub j s)) = advanced ((kindWidth k).bytes + n) q i s := by
  simp [advanced, afterRead, atSub, BitVec.ofNat_add, BitVec.add_assoc]

theorem decodeDescriptor_fieldDesc (f : Kind × Key) :
    ∃ i, decodeDescriptor (fieldDesc f) = .ok i ∧ i.sub? = some f := by
  have hsub : (kindRow f.1 f.2).sub? = some f := by
    obtain ⟨k, key⟩ := f
    cases k <;> rfl
  exact ⟨_, decodeDescriptor_encodeDescriptor hsub, hsub⟩

/-- Fields that fit are read one after the other, and the descriptors behind them follow. -/
theorem runSubs_fields {fields : List (Kind × Key)} (after : List Half) (j : Nat) {s : State}
    (hfit : s.engine.cur.toNat + fieldBytes fields ≤ s.snap.len.toNat) :
    ∃ q i, ReadsInto s.snap fields s.engine.cur.toNat s.engine.pend q ∧
      runSubs (fields.map fieldDesc ++ after) j s =
        runSubs after (j + fields.length) (advanced (fieldBytes fields) q i s) := by
  induction fields generalizing j s with
  | nil => exact ⟨_, s.engine.sub, rfl, congrArg (runSubs after j) (advanced_zero s).symm⟩
  | cons f rest ih =>
    obtain ⟨k, key⟩ := f
    have hbytes : fieldBytes ((k, key) :: rest) = (kindWidth k).bytes + fieldBytes rest := rfl
    rw [hbytes, ← Nat.add_assoc] at hfit
    obtain ⟨raw, hm, hraw⟩ := memRead_of_fits ((Nat.le_add_right _ _).trans hfit)
    obtain ⟨i, hd, hi⟩ := decodeDescriptor_fieldDesc (k, key)
    have hcur := afterRead_cur (s := atSub j s) key hm
    obtain ⟨q, i', hq, hrun⟩ := ih (j + 1) (s := afterRead k key raw (atSub j s)) (by rw [hcur]; exact hfit)
    rw [hcur] at hq
    refine ⟨q, i', ⟨convert k raw, hraw ▸ converts_convert k raw, hq⟩, ?_⟩
    rw [List.map_cons, List.cons_append, runSubs_read _ j hd hi hm, hrun, advanced_afterRead, List.length_cons,
      Nat.add_assoc, Nat.add_comm 1, hbytes]

/-- Descriptors without a kind end the slot (R85). -/
theorem runSubs_replicate_none (m j : Nat) (s : State) : runSubs (List.replicate m 0x0000#16) j s = .ok s := by
  cases m with
  | zero => rfl
  | succ m => exact runSubs_end _ j rfl rfl

/-- EXEC_SLOT of fields that fit (R112). -/
theorem runSlot_fields {s : State} {e k : Nat} {en : Entry} (hen : s.config.entries[e]? = some en)
    {fields : List (Kind × Key)} {m : Nat}
    (hdescs : (en.slot k).descs = fields.map fieldDesc ++ List.replicate m 0x0000#16)
    (hfit : s.engine.cur.toNat + fieldBytes fields ≤ s.snap.len.toNat) :
    ∃ q, ReadsInto s.snap fields s.engine.cur.toNat s.engine.pend q ∧
      runSlot e k s = .next (slotDone (fieldBytes fields) k q s) := by
  obtain ⟨q, i, hq, hrun⟩ := runSubs_fields (List.replicate m 0x0000#16) 0 (s := atBit k s) hfit
  refine ⟨q, hq, ?_⟩
  rw [runSlot_atBit hen, hdescs, hrun, runSubs_replicate_none]
  simp [finish, endSlot, advanced, atBit, slotDone, BitVec.ofNat_add]

/-- Settles O42: the slot's three fields in order. -/
theorem envSlotReadsThreeFields : Obligations.EnvSlotReadsThreeFields := by
  unfold Obligations.EnvSlotReadsThreeFields
  intro s en hen hslot hfit
  have hdescs : (en.slot 3).descs =
      [(Kind.s16Q8, 0x03#8), (.u16P4, 0x04#8), (.u8Pct, 0x05#8)].map fieldDesc ++ List.replicate 0 0x0000#16 := by
    rw [show en.slot 3 = en.slot3 from rfl, hslot]
    rfl
  obtain ⟨_, ⟨t, ht, p, hp, rh, hrh, rfl⟩, hrun⟩ := runSlot_fields hen hdescs hfit
  exact ⟨t, p, rh, ht, hp, hrh, hrun⟩

/-- The two descriptors of tSoil are those of S16_Q8 and U16_Q8 under key 8 (R172). -/
theorem soil_field {d : Half} (hd : d = 0x0083#16 ∨ d = 0x0084#16) :
    ∃ k, d = fieldDesc (k, 0x08#8) ∧ kindWidth k = .two ∧ ∀ v b, Converts k v b →
      IsF64 ((if d = 0x0083#16 then (signed16 v : ℚ) else v) / 256) b := by
  rcases hd with rfl | rfl
  · exact ⟨.s16Q8, rfl, rfl, fun v b h => by simpa [Converts] using h⟩
  · exact ⟨.u16Q8, rfl, rfl, fun v b h => by simpa [Converts] using h⟩

/-- Settles O43: the slot's two fields, the first of the kind its descriptor names. -/
theorem soilSlotReadsTwoFields : Obligations.SoilSlotReadsTwoFields := by
  unfold Obligations.SoilSlotReadsTwoFields
  intro s en d hen hslot hd hfit
  obtain ⟨k, hk, hw, hconv⟩ := soil_field hd
  have hdescs : (en.slot 6).descs =
      [(k, 0x08#8), (Kind.u8Pct, 0x09#8)].map fieldDesc ++ List.replicate 1 0x0000#16 := by
    rw [show en.slot 6 = en.slot6 from rfl, hslot, hk]
    rfl
  have hbytes : fieldBytes [(k, 0x08#8), (Kind.u8Pct, 0x09#8)] = 3 := by
    simp only [fieldBytes, List.map_cons, hw]
    rfl
  obtain ⟨_, ⟨t, ht, rh, hrh, rfl⟩, hrun⟩ := runSlot_fields hen hdescs (hbytes ▸ hfit)
  rw [hw] at ht hrh
  rw [hbytes] at hrun
  exact ⟨t, rh, hconv _ _ ht, hrh, hrun⟩

end Sys2Proof.Machine
end

section
/-! PROOF. The ranges of the conversions (41_field_kinds.md R144, R145). -/

namespace Sys2Proof.Machine

/-- Where the results of a kind lie (R145). -/
def kindRange (k : Kind) : Set ℚ :=
  match k with
  | .u8Raw => Set.Icc 0 255
  | .s16Q12 => Set.Icc (-8) (8 - 1 / 2 ^ 12)
  | .s16Q8 => Set.Icc (-128) (128 - 1 / 2 ^ 8)
  | .u16Q8 => Set.Icc 0 (256 - 1 / 2 ^ 8)
  | .u16P4 => Set.Icc 0 (f64Value 0x40A47ACCCCCCCCCD#64)
  | .u8Pct => Set.Icc 0 99.609375
  | .u16Raw => Set.Icc 0 65535
  | .u16Pct => Set.Icc 0 100
  | .fp16Eng => Set.Icc 0 14396.484375

/-- The word R145 gives for 2621.4, as a fraction. -/
theorem f64Value_u16P4_top : f64Value 0x40A47ACCCCCCCCCD#64 = 0x147ACCCCCCCCCD / 2 ^ 41 := by
  have hsign : (0x40A47ACCCCCCCCCD#64).getLsbD 63 = false := by decide
  have hsig : f64Significand 0x40A47ACCCCCCCCCD#64 = 0x147ACCCCCCCCCD := by decide
  have hexp : f64Exponent 0x40A47ACCCCCCCCCD#64 = -41 := by decide
  rw [f64Value, hsign, hsig, hexp]
  norm_num

theorem signed16_mem_Icc {v : Nat} (hv : v ≤ 65535) : (signed16 v : ℚ) ∈ Set.Icc (-32768) 32767 := by
  have h : -32768 ≤ signed16 v ∧ signed16 v ≤ 32767 := by
    unfold signed16
    split <;> omega
  exact ⟨by exact_mod_cast h.1, by exact_mod_cast h.2⟩

/-- A conversion stays in the range of its kind (R145). -/
theorem Converts.mem_kindRange {k : Kind} {v : Nat} {b : F64} (h : Converts k v b) (hv : v ≤ 65535)
    (hone : kindWidth k = .one → v ≤ 255) : f64Value b ∈ kindRange k := by
  have hv' : (v : ℚ) ∈ Set.Icc 0 65535 := ⟨Nat.cast_nonneg v, by exact_mod_cast hv⟩
  obtain ⟨hlo, hhi⟩ := hv'
  cases k with
  | u8Raw | u8Pct =>
    obtain ⟨-, hval, -⟩ := h
    have hbyte : (v : ℚ) ≤ 255 := by exact_mod_cast hone rfl
    simp only [kindRange, Set.mem_Icc, hval]
    constructor <;> linarith
  | u16Q8 | u16Raw =>
    obtain ⟨-, hval, -⟩ := h
    simp only [kindRange, Set.mem_Icc, hval]
    constructor <;> linarith
  | s16Q12 | s16Q8 =>
    obtain ⟨-, hval, -⟩ := h
    obtain ⟨hslo, hshi⟩ := signed16_mem_Icc hv
    simp only [kindRange, Set.mem_Icc, hval]
    constructor <;> linarith
  | u16P4 =>
    have hmem := IsRne.mem_Icc h (m := 0) (n := 0x147ACCCCCCCCCD) (k := 41) (by decide) (by decide) (by decide)
      ⟨by norm_num; linarith, by norm_num; linarith⟩
    simpa only [kindRange, f64Value_u16P4_top, Nat.cast_zero, zero_div, Nat.cast_pow, Nat.cast_ofNat] using hmem
  | u16Pct =>
    obtain ⟨q, hq, hb⟩ := h
    have hq' : f64Value q ∈ Set.Icc 0 1 := by
      rcases f64Value_of_isRne_fraction hv hq with h0 | ⟨hqlo, hqhi⟩
      · simp [h0]
      · exact ⟨le_trans (by norm_num) hqlo, hqhi⟩
    obtain ⟨hqlo, hqhi⟩ := hq'
    have hmem := hb.mem_Icc (m := 0) (n := 100) (k := 0) (by decide) (by decide) (by decide)
      ⟨by norm_num; linarith, by norm_num; linarith⟩
    simpa [kindRange] using hmem
  | fp16Eng =>
    obtain ⟨-, hval, -⟩ := h
    have hnum : ((v % 4096 * 2 ^ (v / 4096) : Nat) : ℚ) ≤ 4095 * 2 ^ 15 := by exact_mod_cast fp16_numerator_le hv
    have hnonneg : (0 : ℚ) ≤ (v % 4096 * 2 ^ (v / 4096) : Nat) := Nat.cast_nonneg _
    simp only [kindRange, Set.mem_Icc, hval]
    rw [fp16_product, Nat.cast_mul _ 14400, Nat.cast_mul 4096]
    norm_num only
    constructor <;> linarith

theorem kindRange_subset (k : Kind) : kindRange k ⊆ Set.Icc (-65535) 65535 := by
  have htop := f64Value_u16P4_top
  cases k <;> refine Set.Icc_subset_Icc (by norm_num) ?_ <;> linarith

/-- A conversion is finite, and zero only as +0.0 (R144). -/
theorem Converts.finite {k : Kind} {v : Nat} {b : F64} (h : Converts k v b) :
    F64Finite b ∧ (f64Value b = 0 → b = 0#64) := by
  have ofExact {q : ℚ} (hb : IsF64 q b) : F64Finite b ∧ (f64Value b = 0 → b = 0#64) := by
    obtain ⟨hfin, rfl, hzero⟩ := hb
    exact ⟨hfin, hzero⟩
  have ofRounded {q : ℚ} (hb : IsRne q b) : F64Finite b ∧ (f64Value b = 0 → b = 0#64) := by
    obtain ⟨hfin, -, -, hzero⟩ := hb
    exact ⟨hfin, hzero⟩
  cases k with
  | u8Raw | s16Q12 | s16Q8 | u16Q8 | u8Pct | u16Raw | fp16Eng => exact ofExact h
  | u16P4 => exact ofRounded h
  | u16Pct =>
    obtain ⟨q, -, hb⟩ := h
    exact ofRounded hb

/-- Raw 0 gives +0.0 (R144). -/
theorem convert_zero (k : Kind) : convert k 0x0000#16 = 0#64 := by
  cases k with
  | u8Raw | s16Q12 | s16Q8 | u16Q8 | u16P4 | u8Pct | u16Raw | u16Pct => rfl
  | fp16Eng =>
    have hmant : fp16Mant 0x0000#16 = 0 := rfl
    simp [convert, convFp16Eng, hmant, rne]

theorem one_div_4096_le_kindScale (k : Kind) : 1 / 4096 ≤ kindScale k := by cases k <;> norm_num [kindScale]

/-- A result near a multiple of its scale other than 0 is no smaller than the scale, but for the rounding. -/
theorem NearMultiple.le_abs {x : ℤ} {c v : ℚ} (h : NearMultiple x c v) (hc : 0 ≤ c) (hv : v ≠ 0) :
    c * (1 - 1 / 2 ^ 50) ≤ |v| := by
  unfold NearMultiple at h
  have hx : x ≠ 0 := by
    rintro rfl
    exact hv (by simpa using h)
  have hx' : (1 : ℚ) ≤ |(x : ℚ)| := by exact_mod_cast Int.one_le_abs hx
  have hxc : c ≤ |(x : ℚ)| * c := le_mul_of_one_le_left hc hx'
  have htri : |(x : ℚ)| * c - |v| ≤ |v - x * c| := by
    rw [abs_sub_comm, ← abs_of_nonneg hc, ← abs_mul, abs_of_nonneg hc]
    exact abs_sub_abs_le_abs_sub _ _
  linarith

/-- A nonzero result of FP16_ENG is a positive numerator over `2 ^ 27`. -/
theorem le_abs_of_converts_fp16Eng {v : Nat} {b : F64} (h : Converts .fp16Eng v b) (hb : f64Value b ≠ 0) :
    14400 / 2 ^ 27 ≤ |f64Value b| := by
  obtain ⟨-, hval, -⟩ := h
  rw [fp16_product] at hval
  have hpos : 1 ≤ v % 4096 * 2 ^ (v / 4096) := by
    by_contra hzero
    exact hb (by rw [hval, Nat.lt_one_iff.1 (not_le.1 hzero)]; simp)
  have hpos' : (1 : ℚ) ≤ (v % 4096 * 2 ^ (v / 4096) : Nat) := by exact_mod_cast hpos
  rw [Nat.cast_mul _ 14400, Nat.cast_mul 4096] at hval
  refine le_trans ?_ (le_abs_self _)
  rw [hval]
  norm_num only
  linarith

/-- The least magnitude of a nonzero result is FP16_ENG's (R144). -/
theorem le_abs_f64Value_convert (k : Kind) (raw : Half) (h : f64Value (convert k raw) ≠ 0) :
    14400 / 2 ^ 27 ≤ |f64Value (convert k raw)| := by
  by_cases hk : k = .fp16Eng
  · subst hk
    exact le_abs_of_converts_fp16Eng (converts_convert .fp16Eng raw) h
  · have hscale := one_div_4096_le_kindScale k
    have := (nearMultiple_convert hk raw).le_abs (kindScale_pos k).le h
    linarith

/-- Settles O56: each result is what its rule says, so it lies in its range; a nonzero one is not below the multiples of
its scale or FP16_ENG's least numerator. -/
theorem conversionsStayInRange : Obligations.ConversionsStayInRange := by
  unfold Obligations.ConversionsStayInRange
  intro k raw hone
  have hconv := converts_convert k raw
  have hlt := raw.isLt
  have hrange := hconv.mem_kindRange (by omega) fun hw => Nat.le_of_lt_succ (hone hw)
  obtain ⟨hfin, hzero⟩ := hconv.finite
  refine ⟨hfin, hzero, fun h0 => h0 ▸ convert_zero k, fun hne => ⟨le_abs_f64Value_convert k raw hne, ?_⟩, ?_⟩
  · exact abs_le.2 (kindRange_subset k hrange)
  · cases k <;> exact hrange

end Sys2Proof.Machine
end

section
/-! PROOF. A slot of one field whose bytes fit delivers it (42_registry.md R167, R168, R170, R171, R173). -/

namespace Sys2Proof.Machine

/-- EXEC_SLOT of a slot of one sub-value that fits (R112). -/
theorem runSlot_one {s : State} {e k : Nat} {en : Entry} (hen : s.config.entries[e]? = some en) {kind : Kind}
    {key : Key} (hslot : en.slot k = Slot.one (fieldDesc (kind, key)))
    (hfit : s.engine.cur.toNat + (kindWidth kind).bytes ≤ s.snap.len.toNat) :
    ∃ v, Converts kind (rawAt (kindWidth kind) s.snap s.engine.cur.toNat) v ∧
      runSlot e k s = .next (slotDone (kindWidth kind).bytes k (s.engine.pend.put key v) s) := by
  have hdescs : (en.slot k).descs = [(kind, key)].map fieldDesc ++ List.replicate 2 0x0000#16 := by
    rw [hslot]
    rfl
  obtain ⟨_, ⟨v, hv, rfl⟩, hrun⟩ := runSlot_fields hen hdescs hfit
  exact ⟨v, hv, hrun⟩

/-- Settles O41: each row is EXEC_SLOT of its entry and flag bit, the slot's descriptor that of the row's field. -/
theorem singleFieldSlotsDeliverTheirValue : Obligations.SingleFieldSlotsDeliverTheirValue := by
  unfold Obligations.SingleFieldSlotsDeliverTheirValue
  refine fun s en => ⟨?f14VBat, ?f14Boot, ?f15VBat, ?f15Boot, ?f15Lux, ?f15TWater⟩
  case f14VBat => exact fun hen hslot => runSlot_one (kind := .s16Q12) (key := 0x01#8) hen hslot
  case f14Boot => exact fun hen hslot => runSlot_one (kind := .u8Raw) (key := 0x02#8) hen hslot
  case f15VBat => exact fun hen hslot => runSlot_one (kind := .s16Q12) (key := 0x01#8) hen hslot
  case f15Boot => exact fun hen hslot => runSlot_one (kind := .u8Raw) (key := 0x02#8) hen hslot
  case f15Lux => exact fun hen hslot => runSlot_one (kind := .u16Raw) (key := 0x06#8) hen hslot
  case f15TWater => exact fun hen hslot => runSlot_one (kind := .s16Q8) (key := 0x07#8) hen hslot

end Sys2Proof.Machine
end

section
/-! PROOF. The load checks are W1 to W10 on the words as numbers, and a reset is taken exactly when they hold
(42_registry.md R160; 70_reset_and_hazards.md R210). -/

namespace Sys2Proof.Machine

/-! Fields of a header word (R81). -/

theorem toNat_headerByteVal (h : HeaderWord) : (headerByteVal h).toNat = h.toNat % 2 ^ 8 := by simp [headerByteVal]

theorem toNat_headerPortVal (h : HeaderWord) : (headerPortVal h).toNat = h.toNat / 2 ^ 16 % 2 ^ 8 := by
  simp [headerPortVal, Nat.shiftRight_eq_div_pow]

theorem toNat_headerNorm (h : HeaderWord) : (headerNorm h).toNat = h.toNat / 2 ^ 10 % 4 := by
  simp [headerNorm, Nat.shiftRight_eq_div_pow]

theorem toNat_headerReservedLow (h : HeaderWord) : (headerReservedLow h).toNat = h.toNat / 2 ^ 12 % 16 := by
  simp [headerReservedLow, Nat.shiftRight_eq_div_pow]

theorem toNat_headerReservedHigh (h : HeaderWord) : (headerReservedHigh h).toNat = h.toNat / 2 ^ 24 := by
  have := h.isLt
  simp only [headerReservedHigh, BitVec.extractLsb'_toNat, Nat.shiftRight_eq_div_pow]
  omega

theorem headerByteEn_eq (h : HeaderWord) : headerByteEn h = decide (h.toNat / 2 ^ 8 % 2 = 1) :=
  Nat.testBit_eq_decide_div_mod_eq

theorem headerPortEn_eq (h : HeaderWord) : headerPortEn h = decide (h.toNat / 2 ^ 9 % 2 = 1) :=
  Nat.testBit_eq_decide_div_mod_eq

/-- The selectors are bits 9:0 and 23:16 of the header (R81, R160 W5). -/
theorem Entry.selector_eq_iff (a b : Entry) : a.selector = b.selector ↔
    a.header.toNat % 2 ^ 10 = b.header.toNat % 2 ^ 10 ∧
      a.header.toNat / 2 ^ 16 % 2 ^ 8 = b.header.toNat / 2 ^ 16 % 2 ^ 8 := by
  simp only [Entry.selector, Prod.mk.injEq, headerByteEn_eq, headerPortEn_eq, decide_eq_decide, ← BitVec.toNat_inj,
    toNat_headerByteVal, toNat_headerPortVal]
  omega

/-! Tables of names (R25). -/

theorem isSome_findName_iff (names : List (Nat × String)) (k : Nat) :
    (findName names k).isSome = true ↔ k ∈ names.map Prod.fst := by
  induction names with
  | nil => simp [findName]
  | cons p rest ih =>
    obtain ⟨n, name⟩ := p
    by_cases hn : n = k
    · simp [findName, hn]
    · rw [findName, if_neg hn, ih, List.map_cons, List.mem_cons, or_iff_right (Ne.symm hn)]

/-! The fields of a descriptor word as numbers (R83). -/

theorem descKind_eq_zero_iff (d : Half) : descKind d = 0#4 ↔ d.toNat % 16 = 0 := by
  rw [← BitVec.toNat_inj, toNat_descKind, BitVec.toNat_ofNat, Nat.zero_mod]

theorem descKey_eq_iff (a b : Half) : descKey a = descKey b ↔ a.toNat / 16 % 2 ^ 8 = b.toNat / 16 % 2 ^ 8 := by
  rw [← BitVec.toNat_inj, toNat_descKey, toNat_descKey]

/-- The descriptors that name a key, by their KIND as a number (R85, R92). -/
theorem Entry.keys_eq (en : Entry) : en.keys = (en.descs.filter fun d => d.toNat % 16 ≠ 0).map descKey := by
  refine congrArg (List.map descKey) (List.filter_congr fun d _ => ?_)
  rw [Bool.eq_iff_iff, bne_iff_ne, decide_eq_true_eq, ne_eq, descKind_eq_zero_iff]

/-! The checks of R160, one by one. -/

section Checks
variable (c : Configuration)

theorem Configuration.checkW2_iff : c.checkW2 = true ↔ ∀ en ∈ c.entries,
    en.header.toNat / 2 ^ 12 % 16 = 0 ∧ en.header.toNat / 2 ^ 24 = 0 ∧ en.header.toNat / 2 ^ 10 % 4 ≤ 1 := by
  simp only [Configuration.checkW2, List.all_eq_true, Bool.and_eq_true, and_assoc, beq_iff_eq, decide_eq_true_eq,
    ← BitVec.toNat_inj, toNat_headerReservedLow, toNat_headerReservedHigh, toNat_headerNorm, BitVec.toNat_ofNat,
    Nat.zero_mod]

theorem Configuration.checkW3_iff : c.checkW3 = true ↔ ∀ en ∈ c.entries,
    en.header.toNat / 2 ^ 8 % 2 = 1 ∨ en.header.toNat / 2 ^ 9 % 2 = 1 := by
  simp only [Configuration.checkW3, List.all_eq_true, Bool.or_eq_true, headerByteEn_eq, headerPortEn_eq,
    decide_eq_true_eq]

theorem Configuration.checkW4_iff : c.checkW4 = true ↔ ∀ en ∈ c.entries,
    (en.header.toNat / 2 ^ 8 % 2 = 0 → en.header.toNat % 2 ^ 8 = 0) ∧
      (en.header.toNat / 2 ^ 9 % 2 = 0 → en.header.toNat / 2 ^ 16 % 2 ^ 8 = 0) := by
  simp only [Configuration.checkW4, List.all_eq_true, Bool.and_eq_true, Bool.or_eq_true, headerByteEn_eq,
    headerPortEn_eq, decide_eq_true_eq, beq_iff_eq, ← BitVec.toNat_inj, toNat_headerByteVal, toNat_headerPortVal,
    BitVec.toNat_ofNat, Nat.zero_mod, or_iff_not_imp_left, Nat.mod_two_ne_one]

theorem Configuration.checkW5_iff : c.checkW5 = true ↔ c.entries.Pairwise fun a b =>
    ¬(a.header.toNat % 2 ^ 10 = b.header.toNat % 2 ^ 10 ∧
      a.header.toNat / 2 ^ 16 % 2 ^ 8 = b.header.toNat / 2 ^ 16 % 2 ^ 8) := by
  simp only [Configuration.checkW5, decide_eq_true_eq, List.Nodup, List.pairwise_map, ne_eq, Entry.selector_eq_iff]

theorem Configuration.checkW6_iff : c.checkW6 = true ↔ ∀ en ∈ c.entries, ∀ d ∈ en.descs,
    d.toNat / 2 ^ 12 = 0 ∧ d.toNat % 16 ≤ 9 ∧ (d.toNat / 16 % 2 ^ 8 = 0 ↔ d.toNat % 16 = 0) := by
  simp only [Configuration.checkW6, List.all_eq_true, Bool.and_eq_true, and_assoc, beq_iff_eq, decide_eq_true_eq,
    beq_eq_beq, ← BitVec.toNat_inj, toNat_descReserved, toNat_descKind, toNat_descKey, BitVec.toNat_ofNat,
    Nat.zero_mod]

theorem Configuration.checkW7_iff : c.checkW7 = true ↔ ∀ en ∈ c.entries, ∀ sl ∈ en.slots,
    (sl.d0.toNat % 16 = 0 → sl.d1.toNat % 16 = 0 ∧ sl.d2.toNat % 16 = 0) ∧
      (sl.d1.toNat % 16 = 0 → sl.d2.toNat % 16 = 0) := by
  simp only [Configuration.checkW7, List.all_eq_true, Bool.and_eq_true, Bool.or_eq_true, bne_iff_ne, ne_eq,
    beq_iff_eq, descKind_eq_zero_iff, ← imp_iff_not_or]

theorem Configuration.checkW8_iff : c.checkW8 = true ↔ ∀ en ∈ c.entries,
    (en.descs.filter fun d => d.toNat % 16 ≠ 0).Pairwise fun a b => a.toNat / 16 % 2 ^ 8 ≠ b.toNat / 16 % 2 ^ 8 := by
  simp only [Configuration.checkW8, List.all_eq_true, decide_eq_true_eq, Entry.keys_eq, List.Nodup, List.pairwise_map,
    ne_eq, descKey_eq_iff]

theorem Configuration.checkW9_iff : c.checkW9 = true ↔ ∀ en ∈ c.entries, ∀ d ∈ en.descs,
    d.toNat % 16 ≠ 0 → d.toNat / 16 % 2 ^ 8 ∈ c.keyName.map Prod.fst := by
  simp only [Configuration.checkW9, List.all_eq_true, isSome_findName_iff, Entry.keys_eq, List.forall_mem_map,
    List.mem_filter, decide_eq_true_eq, and_imp, toNat_descKey]

/-- The load checks are W1 to W10 (R160). -/
theorem Configuration.wellFormed_iff_registryOk : c.wellFormed = true ↔ RegistryOk c := by
  simp only [Configuration.wellFormed, Bool.and_eq_true, and_assoc, Configuration.checkW1, Configuration.checkW2_iff,
    Configuration.checkW3_iff, Configuration.checkW4_iff, Configuration.checkW5_iff, Configuration.checkW6_iff,
    Configuration.checkW7_iff, Configuration.checkW8_iff, Configuration.checkW9_iff, Configuration.checkW10,
    decide_eq_true_eq]
  exact Iff.rfl

end Checks

/-- Settles O4: the access is the reset, which asks the load checks. -/
theorem registryLoadedExactlyWhenChecked : Obligations.RegistryLoadedExactlyWhenChecked := by
  unfold Obligations.RegistryLoadedExactlyWhenChecked
  intro s c rest h
  have hstep : step s = doReset c { s with bus := rest } := step_accessing h
  rw [← Configuration.wellFormed_iff_registryOk, hstep]
  refine ⟨fun hc => ?_, fun hc => if_neg hc⟩
  exact ⟨resetWith c { s with bus := rest }, if_pos hc, rfl, rfl, rfl, rfl, rfl⟩

end Sys2Proof.Machine
end

section
/-! PROOF. START while a DECODE is in progress, the outputs between DECODEs, and what raising an error writes and keeps
(60_exceptions.md R184, R199, R200). -/

namespace Sys2Proof.Machine

/-- A DECODE in progress takes no second START (R200, R216). -/
theorem engineStep_startWhileBusy {s : State} (hst : s.out.state = .busy) (hs : s.inputs.start = true) :
    engineStep s = .refused .startWhileBusy := by
  simp [engineStep, hst, hs]

/-- Settles O11: START asserted is acted on before any access, and the START access is the block's own step with START
asserted. -/
theorem startWhileBusyIsRefused : Obligations.StartWhileBusyIsRefused := by
  unfold Obligations.StartWhileBusyIsRefused
  intro s hreset hbusy hstart
  cases hs : s.inputs.start with
  | true => rw [step_start hreset hs, engineStep_startWhileBusy hbusy hs]
  | false =>
    obtain ⟨rest, hbus⟩ := hstart.resolve_left (Bool.eq_false_iff.1 hs)
    calc step s = access .start { s with bus := rest } := step_accessing ⟨hbus, hreset, hs⟩
      _ = .refused .startWhileBusy := engineStep_startWhileBusy hbusy rfl

/-- Settles O13: with no access pending the step is the block's own, which holds the state. -/
theorem outputsHeldBetweenDecodes : Obligations.OutputsHeldBetweenDecodes := by
  unfold Obligations.OutputsHeldBetweenDecodes
  intro s hbus hreset hidle hstart
  rw [step_own hbus hreset, engineStep_held hidle hstart]

/-- Of the internal registers an error discards the pending result and ends the DECODE (R184). -/
theorem raiseError_engine (e : ErrCode) (b : BitVec 4) (c : Byte) (n : BitVec 2) (s : State) :
    (raiseError e b c n s).engine = { s.engine with pend := [], phase := .idle } := rfl

/-- Settles O29: the five classes of registers, each by its law. -/
theorem raiseRecordsTheError : Obligations.RaiseRecordsTheError := by
  unfold Obligations.RaiseRecordsTheError
  intro e bit cursor need s
  exact ⟨raiseError_out e bit cursor need s, raiseError_engine e bit cursor need s,
    raiseError_snap e bit cursor need s, raiseError_inputs e bit cursor need s,
    raiseError_config e bit cursor need s⟩

end Sys2Proof.Machine
end

section
/-! PROOF. A block held in reset, reads while BUSY, and input writes beside a DECODE in progress (10_state.md R47, R66;
70_reset_and_hazards.md R210 to R217). -/

namespace Sys2Proof.Machine

/-! Held in reset (R210, R212). -/

/-- START is next where it is asserted or the host's next access. -/
theorem startNext_iff {s : State} :
    s.startNext = true ↔ s.inputs.start = true ∨ ∃ rest, s.bus = .start :: rest := by
  rw [State.startNext, Bool.or_eq_true]
  refine or_congr_right ?_
  split
  case h_1 hbus => simp [hbus]
  case h_2 hother => exact iff_of_false Bool.false_ne_true fun ⟨rest, h⟩ => hother rest h

/-- Settles O12: in reset a step is a refusal, named by whether START is next. -/
theorem noStepWhileHeldInReset : Obligations.NoStepWhileHeldInReset := by
  unfold Obligations.NoStepWhileHeldInReset
  refine ⟨fun s hreset hstart => ?_, fun s hreset hstart hbus => ?_⟩
  · rw [step_inReset hreset, if_pos (startNext_iff.2 hstart)]
  · have hnone : ¬ s.startNext = true := by simp [startNext_iff, hstart, hbus]
    rw [step_inReset hreset, if_neg hnone]

/-! Reads while BUSY (R215, log 11). -/

theorem readWord_of_busy {s : State} (h : s.out.state = .busy) (r : HostReg) (v : BitVec 64) :
    readWord r v s = .next { s with
      hostData := .word (BitVec.ofNat 64 ((Config.freeRead s.draws).toNat % 2 ^ regWidth r))
      draws := s.draws + 1 } := by
  simp [readWord, h]

theorem readStatus_of_busy {s : State} (h : s.out.state = .busy) :
    readStatus s = .next { s with
      hostData := .word ((statusByte .busy ((Config.freeRead s.draws).getLsbD 2)
        ((Config.freeRead s.draws).getLsbD 3)).setWidth 64)
      draws := s.draws + 1 } := by
  simp [readStatus, h]

/-- The word a read of STATUS delivers while BUSY: STATE at bit 0, FV at bit 2, MV at bit 3 (R38, R39). -/
theorem toNat_statusByte_busy (fv mv : Bool) :
    ((statusByte .busy fv mv).setWidth 64).toNat = 1 + (if fv then 4 else 0) + (if mv then 8 else 0) := by
  cases fv <;> cases mv <;> rfl

/-- Settles O16: register by register, the read is a draw cut to the register's width. -/
theorem busyReadsReturnTheNextDraw : Obligations.BusyReadsReturnTheNextDraw := by
  unfold Obligations.BusyReadsReturnTheNextDraw
  intro s r rest h hbusy
  have hword := readWord_of_busy (s := { s with bus := rest }) hbusy
  rw [step_accessing h]
  refine ⟨fun w hr => ?_, ?_⟩
  · simp only [List.mem_cons, Prod.mk.injEq, List.not_mem_nil, or_false] at hr
    obtain (⟨rfl, rfl⟩ | ⟨rfl, rfl⟩ | ⟨rfl, rfl⟩ | ⟨rfl, rfl⟩ | ⟨rfl, rfl⟩ | ⟨rfl, rfl⟩ | ⟨rfl, rfl⟩ | ⟨rfl, rfl⟩) |
      ⟨⟨k, rfl⟩, rfl⟩ := hr
    all_goals exact hword _ _
  · rintro rfl
    exact ⟨_, toNat_statusByte_busy _ _, readStatus_of_busy (s := { s with bus := rest }) hbusy⟩

/-! Input writes (R47, R66). -/

/-- The state with other inputs. -/
def State.withInputs (j : Inputs) (s : State) : State := { s with inputs := j }

/-- A write of an input that takes effect changes the inputs alone. -/
theorem access_inputWrite {r : HostReq} {s t : State}
    (hr : (∃ i b, r = .writeMsg i b) ∨ (∃ n, r = .writeLen n) ∨ (∃ v, r = .writePortValid v) ∨ ∃ p, r = .writePort p)
    (h : access r s = .next t) : ∃ j, t = s.withInputs j := by
  obtain ⟨i, b, rfl⟩ | ⟨n, rfl⟩ | ⟨v, rfl⟩ | ⟨p, rfl⟩ := hr
  · rw [access] at h
    split at h <;> cases h
    exact ⟨_, rfl⟩
  all_goals cases h; exact ⟨_, rfl⟩

/-! A DECODE beside other inputs: every operation answers what it would, with those inputs in place (R217). -/

/-- The outcome with other inputs in its next state; a stop as it is. -/
def resultWithInputs (j : Inputs) (r : Result) : Result :=
  match r with
  | .next s => .next (s.withInputs j)
  | .fault x => .fault x
  | .refused x => .refused x

section Decode
variable (j : Inputs) (s : State)

theorem nextSub_withInputs : nextSub (s.withInputs j) = (nextSub s).withInputs j := by
  rw [nextSub, nextSub, apply_ite (State.withInputs j)]
  rfl

theorem walk_withInputs : walk (s.withInputs j) = (walk s).withInputs j := by
  simp only [walk, apply_ite (State.withInputs j)]
  rfl

theorem fetchFlags_withInputs : fetchFlags (s.withInputs j) = (fetchFlags s).withInputs j := by
  cases hm : memRead s.snap s.engine.cur.toNat .one with
  | none => rw [fetchFlags_none hm]; exact fetchFlags_none hm
  | some f => rw [fetchFlags_some hm]; exact fetchFlags_some hm

theorem selectEntry_withInputs (e : Nat) : selectEntry e (s.withInputs j) = resultWithInputs j (selectEntry e s) := by
  cases hen : s.config.entries[e]? with
  | none => simp [selectEntry, State.withInputs, hen, resultWithInputs]
  | some en => rw [selectEntry_eq hen]; exact selectEntry_eq hen

theorem checkAssigned_withInputs : checkAssigned (s.withInputs j) = resultWithInputs j (checkAssigned s) := by
  cases hen : s.entry? with
  | none => rw [checkAssigned_noEntry hen]; exact checkAssigned_noEntry hen
  | some en =>
    cases hk : firstUnassigned en s.engine.flagN with
    | none => rw [checkAssigned_none hen hk]; exact checkAssigned_none hen hk
    | some k => rw [checkAssigned_some hen hk]; exact checkAssigned_some hen hk

theorem runKind_withInputs (k : Kind) (key : Key) :
    runKind k key (s.withInputs j) = resultWithInputs j (runKind k key s) := by
  cases hm : memRead s.snap s.engine.cur.toNat (kindWidth k) with
  | none => rw [runKind_truncated hm]; exact runKind_truncated hm
  | some raw =>
    rw [runKind_fits hm, runKind_fits (s := s.withInputs j) hm]
    exact congrArg Host.Outcome.next (nextSub_withInputs j (afterRead k key raw s))

/-- The sub-values of a slot from descriptor n on, and its end (R112). -/
theorem runSubs_withInputs (descs : List Half) (n : Nat) :
    finish (runSubs descs n (s.withInputs j)) endSlot = resultWithInputs j (finish (runSubs descs n s) endSlot) := by
  induction descs generalizing n s with
  | nil => rfl
  | cons d rest ih =>
    cases hd : decodeDescriptor d with
    | error x => rw [runSubs_reserved rest n hd, runSubs_reserved rest n hd]; rfl
    | ok i =>
      cases hi : i.sub? with
      | none => rw [runSubs_end rest n hd hi, runSubs_end rest n hd hi]; rfl
      | some p =>
        cases hm : memRead s.snap s.engine.cur.toNat (kindWidth p.1) with
        | none => rw [runSubs_truncated rest n hd hi hm, runSubs_truncated (s := s.withInputs j) rest n hd hi hm]; rfl
        | some raw =>
          rw [runSubs_read rest n hd hi hm, runSubs_read (s := s.withInputs j) rest n hd hi hm]
          exact ih (afterRead p.1 p.2 raw (atSub n s)) (n + 1)

theorem runSlot_withInputs (e k : Nat) : runSlot e k (s.withInputs j) = resultWithInputs j (runSlot e k s) := by
  cases hen : s.config.entries[e]? with
  | none => rw [runSlot_noEntry hen]; exact runSlot_noEntry hen
  | some en =>
    rw [runSlot_atBit hen, runSlot_atBit (s := s.withInputs j) hen]
    exact runSubs_withInputs j (atBit k s) (en.slot k).descs 0

theorem exec_withInputs (i : Instr) : exec i (s.withInputs j) = resultWithInputs j (exec i s) := by
  cases runsAs i with
  | select e hx => rw [hx, hx, selectEntry_withInputs]
  | norm f hx => rw [hx, hx]; rfl
  | none hx => rw [hx, hx]; rfl
  | kind k key hx => rw [hx, hx, runKind_withInputs]
  | slot e k hx => rw [hx, hx, runSlot_withInputs]

theorem runOp_withInputs (o : EngineOp) : runOp o (s.withInputs j) = resultWithInputs j (runOp o s) := by
  cases o with
  | unknownFormat | noEntry | hold => rfl
  | select e => exact selectEntry_withInputs j s e
  | fetchFlags => exact congrArg Host.Outcome.next (fetchFlags_withInputs j s)
  | checkAssigned => exact checkAssigned_withInputs j s
  | walk => exact congrArg Host.Outcome.next (walk_withInputs j s)
  | slot e k => exact runSlot_withInputs j s e k

theorem runFetched_withInputs (f : Fetched) :
    runFetched f (s.withInputs j) = resultWithInputs j (runFetched f s) := by
  cases f with
  | instr i => exact exec_withInputs j s i
  | op o => exact runOp_withInputs j s o
  | reserved x => rfl

/-- What is fetched does not depend on the inputs: the message was latched. -/
theorem fetch_withInputs : fetch (s.withInputs j) = fetch s := rfl

end Decode

/-- A DECODE in progress is one with any inputs that do not assert START. -/
theorem Running.withInputs {p : Phase} {s : State} (h : Running p s) {j : Inputs} (hj : j.start = false) :
    Running p (s.withInputs j) := by
  obtain ⟨hbus, hreset, -, hrest⟩ := h
  exact ⟨hbus, hreset, hj, hrest⟩

/-- The step of a DECODE in progress with other inputs (R217). -/
theorem step_running_withInputs {p : Phase} {s : State} (h : Running p s) {j : Inputs} (hj : j.start = false) :
    step (s.withInputs j) = resultWithInputs j (step s) := by
  rw [step_running (h.withInputs hj), fetch_withInputs, runFetched_withInputs, step_running h]

/-- Settles O18: a write changes the inputs alone, and no operation of a DECODE reads them. -/
theorem inputWritesLeaveTheDecodeAlone : Obligations.InputWritesLeaveTheDecodeAlone := by
  unfold Obligations.InputWritesLeaveTheDecodeAlone
  refine ⟨fun s t r rest h hr ht => ?_, fun s t p j h hj ht => ⟨?_, ?_⟩⟩
  · rw [step_accessing h] at ht
    obtain ⟨j, rfl⟩ := access_inputWrite hr ht
    exact ⟨rfl, rfl, rfl, rfl, rfl⟩
  · rw [step_running h] at ht
    exact (runFetched_around ht).inputs
  · exact (step_running_withInputs h hj).trans (congrArg (resultWithInputs j) ht)

end Sys2Proof.Machine
end
